-- ==== Sys2Proof/Word.lean ====
section
/-! DEFINITION. The words of the machine: 8-bit device registers, the 32-bit command word, the 40-bit status block
(00_scope.md R7, 20_memory.md R70, 30_encoding.md R101, R102). -/

namespace Sys2Proof

/-- An 8-bit device register, register number, mask or caller id. -/
abbrev Byte := BitVec 8

/-- The 32-bit command word of 30_encoding.md R101. -/
abbrev CommandWord := BitVec 32

/-- The 40-bit status block of 30_encoding.md R102. -/
abbrev Block := BitVec 40

/-- Five bytes in ascending register order: the status block, the mask registers, a snapshot of either
(20_memory.md R75). -/
structure Bytes5 where
  b0 : Byte
  b1 : Byte
  b2 : Byte
  b3 : Byte
  b4 : Byte
  deriving DecidableEq, Repr

end Sys2Proof
end

