-- ==== Sys2Proof/Syntax.lean ====
section
/-! DEFINITION. The operations: one constructor of `Instr` for each row of spec/opcode_table.json, and the operand types.
CMD rows carry the fields of the command word and the sidebands (30_encoding.md R101); UOP and ENV rows carry the
operands of their rules; EVT rows carry none. -/

namespace Sys2Proof

/-- The completion target of an ADC request (10_state.md R39). -/
inductive Target
  /-- a blocked caller, by its id -/
  | sync (w : Byte)
  /-- an external callback, by its id -/
  | callback (f : Byte)
  /-- the internal classification callback (41_charger_fsm.md R177) -/
  | classify
  deriving DecidableEq, Repr

/-- An ADC request (10_state.md R39). `param` is a natural number because a classification's parameter is a snapshot of
the unbounded removal counter (41_charger_fsm.md R176); for the other targets it is the 32-bit sideband. -/
structure AdcRequest where
  chan : BitVec 4
  avg : BitVec 2
  target : Target
  param : Nat
  deriving DecidableEq, Repr

/-- The charger classification (10_state.md R60). -/
inductive ChargerType
  | none
  | hostLimited
  | oneAmp
  deriving DecidableEq, Repr

/-- The two registers that ENV_SET_STATUS writes (42_interrupt_dispatcher.md R233). -/
inductive StatusReg
  | pwrstat
  | batstat
  deriving DecidableEq, Repr

/-- The decoded interrupt events, in the processing order of 30_encoding.md R104. -/
inductive Event
  | chgIns | chgRem | usbIns | usbRem | alarm | tick
  | onkeyF | onkeyR | onkey1s | batfull | chghalt | thlimOn | thlimOff | usblimOn | usblimOff | adcRdy
  | lowbat | lowsys | hightemp | autopwrfail
  | subregFail (k : Fin 10)
  | ledFail | ledOvp
  deriving DecidableEq, Repr

/-- The place of an event in the processing order: its label code less 0x80 (30_encoding.md R104, R113). -/
def Event.rank : Event → Fin 32
  | .chgIns => 0 | .chgRem => 1 | .usbIns => 2 | .usbRem => 3 | .alarm => 4 | .tick => 5
  | .onkeyF => 6 | .onkeyR => 7 | .onkey1s => 8 | .batfull => 9 | .chghalt => 10 | .thlimOn => 11
  | .thlimOff => 12 | .usblimOn => 13 | .usblimOff => 14 | .adcRdy => 15
  | .lowbat => 16 | .lowsys => 17 | .hightemp => 18 | .autopwrfail => 19
  | .subregFail k => ⟨20 + k.val, by omega⟩
  | .ledFail => 30 | .ledOvp => 31

/-- The processing order of one pass (30_encoding.md R104). -/
def Event.order : List Event :=
  [.chgIns, .chgRem, .usbIns, .usbRem, .alarm, .tick, .onkeyF, .onkeyR, .onkey1s, .batfull, .chghalt,
   .thlimOn, .thlimOff, .usblimOn, .usblimOff, .adcRdy, .lowbat, .lowsys, .hightemp, .autopwrfail,
   .subregFail 0, .subregFail 1, .subregFail 2, .subregFail 3, .subregFail 4, .subregFail 5,
   .subregFail 6, .subregFail 7, .subregFail 8, .subregFail 9, .ledFail, .ledOvp]

/-- The operations of the block, one constructor per row of spec/opcode_table.json, in the table's order. -/
inductive Instr
  -- CMD: host commands (30_encoding.md R101)
  | probe
  | adcAsyncRead (chan : BitVec 4) (avg : BitVec 2) (f : Byte) (param : BitVec 32)
  | adcSyncRead (chan : BitVec 4) (avg : BitVec 2) (w : Byte)
  | batteryVoltage (w : Byte)
  | notifyUsbCurlim (ma : BitVec 16)
  | readRegisterBlock (reg : Byte) (count : Byte)
  | writeRegisterBlock (reg : Byte) (count : Byte) (data : List Byte)
  | setBits (reg : Byte) (mask : Byte)
  | clearBits (reg : Byte) (mask : Byte)
  | ready
  | waitUntilReady (timeout : BitVec 16) (w : Byte)
  | goStandby
  | suspend
  | resume
  -- UOP: internal micro-operations (30_encoding.md R113)
  | adcEnqueue (chan : BitVec 4) (avg : BitVec 2) (target : Target) (param : Nat)
  | adcStart (r : AdcRequest)
  | adcComplete
  | classify (sample : Int) (usbPresent : Bool)
  | applyPolicy (type : ChargerType)
  | setCurrentLimit (ma : Nat)
  | chargeEnable (on : Bool)
  | autoresumeHandshake
  | classifyTrigger
  | classifyDone (snapshot : Nat) (result : Int)
  | curlimTask
  | batfullDance
  | dispatch
  | nobatStart
  | nobatPoll
  -- EVT: decoded events (30_encoding.md R102 to R104)
  | evChgIns
  | evChgRem
  | evUsbIns
  | evUsbRem
  | evAlarm
  | evTick
  | evOnkeyF
  | evOnkeyR
  | evOnkey1s
  | evBatfull
  | evChghalt
  | evThlimOn
  | evThlimOff
  | evUsblimOn
  | evUsblimOff
  | evAdcRdy
  | evLowbat
  | evLowsys
  | evHightemp
  | evAutopwrfail
  | evSubregFail0
  | evSubregFail1
  | evSubregFail2
  | evSubregFail3
  | evSubregFail4
  | evSubregFail5
  | evSubregFail6
  | evSubregFail7
  | evSubregFail8
  | evSubregFail9
  | evLedFail
  | evLedOvp
  -- ENV: environment inputs (30_encoding.md R113)
  | pmuRaise (i : Fin 5) (b : Fin 8)
  | adcHwDone (value : BitVec 10)
  | irqEdge
  | envSetStatus (reg : StatusReg) (v : Byte)
  | envRtcWant (b : Bool)
  deriving DecidableEq, Repr

end Sys2Proof
end

