-- ==== Sys2Proof/Config.lean ====
section
/-! DEFINITION. The configuration record of 00_scope.md R6: every parameter of the spec, carried by the state and changed
by no rule (log 1); the constraints of 93_implementation_defined.md U17 (`Config.wf`); and the record of the spec's test
vectors (`Config.test`, 95_test_vectors.md section 0). -/

namespace Sys2Proof

/-- A place in the status block: byte index 0..4 and bit 0..7 (00_scope.md R6, `STATUS_BIT`). -/
structure StatusPos where
  byte : Fin 5
  bit : Fin 8
  deriving DecidableEq, Repr

/-- The places of the fields of the ADC control byte (30_encoding.md R105). -/
structure AdcctlLayout where
  startBit : Nat
  res10Bit : Nat
  avgShift : Nat
  chanShift : Nat
  deriving DecidableEq, Repr

/-- The register codes of the four tiers (30_encoding.md R107, `TIER_CODE`). -/
structure TierCode where
  suspend : Byte
  ma100 : Byte
  ma500 : Byte
  ma1000 : Byte
  deriving DecidableEq, Repr

/-- The values of the error codes (30_encoding.md R114). -/
structure ErrorValues where
  queueFull : Int
  access : Int
  suspendViolation : Int
  bus : Int
  busy : Int
  range : Int
  timeout : Int
  deriving DecidableEq, Repr

/-- The configuration record `cfg` of 00_scope.md R6. -/
structure Config where
  /-- `N`, the number of FIFO slots -/
  depth : Nat
  /-- `RESULT_BITS`, the width of a conversion result: 10, fixed by the document -/
  resultBits : Nat
  loMask : Byte
  aInt : Byte
  aIntm : Byte
  aAdcctl : Byte
  aAdcresHi : Byte
  aAdcresLo : Byte
  aUsblim : Byte
  aChgctl : Byte
  aFastchg : Byte
  aGpo : Byte
  aPwrstat : Byte
  aBatstat : Byte
  aStandby : Byte
  /-- `STATUS_BIT`, indexed by the rank of the event -/
  statusBit : Vector StatusPos 32
  adcctl : AdcctlLayout
  tierCode : TierCode
  usblimMask : Byte
  chgena : Byte
  autores : Byte
  resumeBit : Byte
  gpoContendMask : Byte
  standbyCmd : Byte
  usbOkMask : Byte
  chgOkMask : Byte
  batPresentMask : Byte
  fastchgMax : Byte
  detectNone : Nat
  detect1A : Nat
  classifyChan : BitVec 4
  classifyAvg : BitVec 2
  /-- `CURLIM_FLOOR`, the minimal USB current: the document fixes it at 100, as in `Config.test`; that the model leaves it
  an open argument is DESIGN CHOICE (log 33) -/
  curlimFloor : Nat
  curlimMax : Nat
  featCharger : Bool
  featRtc : Bool
  resumers : Bytes5
  onkeySigInit : Nat
  onkeyShutdown : Nat
  batfullGrace : Nat
  /-- timing only: read by no rule (00_scope.md R12), as the three delays after it -/
  usbDebounce : Nat
  retryBackoff : Nat
  nobatPeriod : Nat
  curlimDelay : Nat
  battChan : BitVec 4
  battAvg : BitVec 2
  battMvOffset : Nat
  battMvNum : Nat
  battMvDen : Nat
  /-- `COUNTER_BITS`, the width of the USB-removal counter: `none`, the spec's own, is unbounded (10_state.md R24); a
  finite width is the departure that R24 allows (log 22) -/
  counterBits : Option Nat
  shortReadClears : Bool
  chgIdleNotifyNeedsUsb : Bool
  errors : ErrorValues
  deriving DecidableEq, Repr

/-- No number of the list stands in it twice. -/
def distinct : List Nat → Bool
  | [] => true
  | a :: l => !l.elem a && distinct l

/-- The five register numbers of a group that starts at `a`. -/
def group (a : Byte) : List Nat := [a.toNat, a.toNat + 1, a.toNat + 2, a.toNat + 3, a.toNat + 4]

/-- The numbers of the named registers (10_state.md R45 to R55). -/
def Config.addresses (c : Config) : List Nat :=
  group c.aInt ++ group c.aIntm ++
    [c.aAdcctl.toNat, c.aAdcresHi.toNat, c.aAdcresLo.toNat, c.aUsblim.toNat, c.aChgctl.toNat, c.aFastchg.toNat,
     c.aGpo.toNat, c.aPwrstat.toNat, c.aBatstat.toNat, c.aStandby.toNat]

/-- The named registers are pairwise distinct and both groups of five lie inside the space (20_memory.md R78, R70). -/
def Config.mapOk (c : Config) : Bool :=
  distinct c.addresses && decide (c.aInt.toNat + 4 ≤ 255) && decide (c.aIntm.toNat + 4 ≤ 255)

/-- `STATUS_BIT` is injective (30_encoding.md R103). -/
def Config.layoutOk (c : Config) : Bool :=
  distinct (c.statusBit.toList.map fun p => 8 * p.byte.val + p.bit.val)

/-- The tier codes are distinct and lie inside `USBLIM_MASK` (U17). -/
def Config.tiersOk (c : Config) : Bool :=
  distinct [c.tierCode.suspend.toNat, c.tierCode.ma100.toNat, c.tierCode.ma500.toNat, c.tierCode.ma1000.toNat] &&
    (c.tierCode.suspend &&& ~~~c.usblimMask == 0) && (c.tierCode.ma100 &&& ~~~c.usblimMask == 0) &&
    (c.tierCode.ma500 &&& ~~~c.usblimMask == 0) && (c.tierCode.ma1000 &&& ~~~c.usblimMask == 0)

/-- Every open mask is non-zero (30_encoding.md R119). -/
def Config.masksOk (c : Config) : Bool :=
  c.usbOkMask != 0 && c.chgOkMask != 0 && c.batPresentMask != 0 && c.gpoContendMask != 0 && c.standbyCmd != 0

/-- The fields of the control byte lie inside it, one after another (30_encoding.md R105; DEDUCED, log 1). -/
def Config.adcctlOk (c : Config) : Bool :=
  distinct ([c.adcctl.startBit, c.adcctl.res10Bit, c.adcctl.avgShift, c.adcctl.avgShift + 1] ++
      [c.adcctl.chanShift, c.adcctl.chanShift + 1, c.adcctl.chanShift + 2, c.adcctl.chanShift + 3]) &&
    decide (c.adcctl.startBit < 8) && decide (c.adcctl.res10Bit < 8) && decide (c.adcctl.avgShift + 1 < 8) &&
    decide (c.adcctl.chanShift + 3 < 8)

/-- The error codes are negative and pairwise distinct (30_encoding.md R114). -/
def Config.errorsOk (c : Config) : Bool :=
  let e := c.errors
  let l := [e.queueFull, e.access, e.suspendViolation, e.bus, e.busy, e.range, e.timeout]
  l.all (fun v => decide (v < 0)) && distinct (l.map Int.natAbs)

/-- The constraints a model imposes on the parameters (93_implementation_defined.md U17; the capacity and the width of a
result R6). The other value R6 calls fixed by the document, CURLIM_FLOOR = 100, is not demanded: DESIGN CHOICE (log 33). -/
def Config.wf (c : Config) : Bool :=
  decide (2 ≤ c.depth) && (2 ^ Nat.log2 c.depth == c.depth) && (c.resultBits == 10) && c.mapOk && c.layoutOk && c.tiersOk && c.masksOk &&
    c.adcctlOk && c.errorsOk && decide (c.onkeySigInit < c.onkeyShutdown) && decide (0 < c.battMvDen) &&
    decide (c.detectNone ≤ 1023) && decide (c.detect1A ≤ 1023)

/-- The removal counter after one more removal (10_state.md R24): one higher, and back to 0 past a finite `COUNTER_BITS`
(log 22). -/
def Config.countAfter (c : Config) (n : Nat) : Nat :=
  match c.counterBits with
  | none => n + 1
  | some w => (n + 1) % 2 ^ w

/-- The default status-bit layout of 30_encoding.md R103, in processing order. -/
def defaultStatusBit : Vector StatusPos 32 :=
  #v[⟨0, 0⟩, ⟨0, 1⟩, ⟨0, 2⟩, ⟨0, 3⟩, ⟨0, 6⟩, ⟨0, 7⟩, ⟨1, 1⟩, ⟨1, 0⟩, ⟨2, 7⟩, ⟨2, 0⟩, ⟨2, 1⟩, ⟨2, 2⟩, ⟨2, 3⟩, ⟨2, 4⟩,
     ⟨2, 5⟩, ⟨2, 6⟩, ⟨3, 1⟩, ⟨3, 0⟩, ⟨3, 2⟩, ⟨3, 3⟩, ⟨3, 4⟩, ⟨3, 5⟩, ⟨4, 0⟩, ⟨4, 1⟩, ⟨4, 2⟩, ⟨4, 3⟩, ⟨4, 4⟩, ⟨4, 5⟩,
     ⟨4, 6⟩, ⟨4, 7⟩, ⟨3, 6⟩, ⟨3, 7⟩]

/-- The defaults of 00_scope.md R6 with the test values of 95_test_vectors.md section 0. The values that neither gives
(delays, error codes) are DESIGN CHOICE (log 2). -/
def Config.test : Config where
  depth := 8
  resultBits := 10
  loMask := 0x03
  aInt := 0x02
  aIntm := 0x07
  aAdcctl := 0x54
  aAdcresHi := 0x55
  aAdcresLo := 0x57
  aUsblim := 0x49
  aChgctl := 0x43
  aFastchg := 0x47
  aGpo := 0x19
  aPwrstat := 0x4B
  aBatstat := 0x4C
  aStandby := 0x0C
  statusBit := defaultStatusBit
  adcctl := ⟨0, 1, 2, 4⟩
  tierCode := ⟨3, 0, 1, 2⟩
  usblimMask := 0x03
  chgena := 0x01
  autores := 0x04
  resumeBit := 0x08
  gpoContendMask := 0x07
  standbyCmd := 0x01
  usbOkMask := 0x03
  chgOkMask := 0x0C
  batPresentMask := 0x01
  fastchgMax := 0xFF
  detectNone := 43
  detect1A := 6
  classifyChan := 7
  classifyAvg := 3
  curlimFloor := 100
  curlimMax := 1000
  featCharger := true
  featRtc := true
  resumers := ⟨0, 0, 0, 0, 0⟩
  onkeySigInit := 4
  onkeyShutdown := 8
  batfullGrace := 2
  usbDebounce := 0
  retryBackoff := 0
  nobatPeriod := 0
  curlimDelay := 0
  battChan := 0
  battAvg := 3
  battMvOffset := 0
  battMvNum := 6000
  battMvDen := 1023
  counterBits := none
  shortReadClears := false
  chgIdleNotifyNeedsUsb := false
  errors := ⟨-1, -2, -3, -4, -5, -6, -7⟩

end Sys2Proof
end

