-- ==== Sys2Proof/WellFormed.lean ====
section
/-! DEFINITION. Which operations are well formed: operand ranges that the operand types leave room for. -/

namespace Sys2Proof

/-- A conversion sample is in 0..1023 (41_charger_fsm.md R170, R177). -/
abbrev SampleInRange (r : Int) : Prop := 0 ≤ r ∧ r ≤ 1023

/-- The parameter of a request is 32 bits wide (40_adc_scheduler.md R140), but for a classification, whose parameter is a
snapshot of the unbounded removal counter (41_charger_fsm.md R176). -/
abbrev ParamInRange (t : Target) (p : Nat) : Prop := t = .classify ∨ p < 2 ^ 32

/-- The operand ranges of each operation. -/
def Instr.WellFormed : Instr → Bool
  | .adcEnqueue _ _ t p => decide (ParamInRange t p)
  | .adcStart r => decide (ParamInRange r.target r.param)
  | .classify sample _ => decide (SampleInRange sample)
  | .classifyDone _ result => decide (SampleInRange result)
  | _ => true

end Sys2Proof
end

