-- ==== Sys2Proof/Decode.lean ====
section
/-! DEFINITION. The three forms an operation comes in (30_encoding.md R100 to R103, R112, R113, R118), the decoder from
each, and after it the encoder. The UOP and ENV rows have a label code and operands to which the spec gives no bits: the
model carries them as a list of numbers in the order of the rule's operand list (log 11). -/

namespace Sys2Proof

/-! ### Fields and positions -/

/-- `op = w[31:24]` (30_encoding.md R101). -/
def CommandWord.op (w : CommandWord) : Byte := w.extractLsb' 24 8

/-- `a = w[23:16]` (30_encoding.md R101). -/
def CommandWord.a (w : CommandWord) : Byte := w.extractLsb' 16 8

/-- `b = w[15:8]` (30_encoding.md R101). -/
def CommandWord.b (w : CommandWord) : Byte := w.extractLsb' 8 8

/-- `c = w[7:0]` (30_encoding.md R101). -/
def CommandWord.c (w : CommandWord) : Byte := w.extractLsb' 0 8

/-- `chan` in `a[3:0]` (30_encoding.md R101, R118). -/
def CommandWord.chan (w : CommandWord) : BitVec 4 := (CommandWord.a w).extractLsb' 0 4

/-- `avg` in `b[1:0]` (30_encoding.md R101, R118). -/
def CommandWord.avg (w : CommandWord) : BitVec 2 := (CommandWord.b w).extractLsb' 0 2

/-- The 16-bit immediate `(a << 8) | b` (30_encoding.md R118). -/
def CommandWord.imm16 (w : CommandWord) : BitVec 16 := CommandWord.a w ++ CommandWord.b w

/-- `STATUS_BIT[e]` (00_scope.md R6). -/
def Config.pos (cfg : Config) (e : Event) : StatusPos := cfg.statusBit.get e.rank

/-- The bit of the block that stands for an event, `8*i + b` (30_encoding.md R102). -/
def Config.blockBit (cfg : Config) (e : Event) : Nat := 8 * (cfg.pos e).byte.val + (cfg.pos e).bit.val

/-- `mask_e = 1 << (8*i + b)` (30_encoding.md R102). -/
def Config.eventMask (cfg : Config) (e : Event) : Block := 1#40 <<< cfg.blockBit e

/-- `Present(e)`: `block & mask_e = mask_e` (30_encoding.md R102). -/
def Config.present (cfg : Config) (block : Block) (e : Event) : Bool :=
  block &&& cfg.eventMask e == cfg.eventMask e

/-- The first event of a list that is present in the block. -/
def Config.firstPresent (cfg : Config) (block : Block) : List Event → Option Event
  | [] => none
  | e :: l => if cfg.present block e then some e else cfg.firstPresent block l

/-- The events that come after `e` in a pass (30_encoding.md R104). One rule serves EV_LOWBAT and EV_LOWSYS and runs
once per pass (42_interrupt_dispatcher.md R226), so nothing of it is left after EV_LOWBAT. -/
def Event.after (e : Event) : List Event :=
  Event.order.drop (e.rank.val + if e = .lowbat then 2 else 1)

/-- Byte `i` of the block, `block[8*i + 7 : 8*i]` (20_memory.md R75). -/
def Block.byte (b : Block) (i : Nat) : Byte := b.extractLsb' (8 * i) 8

/-- The five bytes of a block (20_memory.md R75). -/
def Block.bytes (b : Block) : Bytes5 :=
  ⟨Block.byte b 0, Block.byte b 1, Block.byte b 2, Block.byte b 3, Block.byte b 4⟩

/-- `B4 ++ B3 ++ B2 ++ B1 ++ B0` (42_interrupt_dispatcher.md R203). -/
def Bytes5.block (v : Bytes5) : Block := v.b4 ++ v.b3 ++ v.b2 ++ v.b1 ++ v.b0

/-! ### Operation words -/

/-- An operation as it stands outside: a command word with its two sidebands (30_encoding.md R101), a label code with its
operands (R113), or a status block (R102). -/
inductive OpWord
  | command (word : CommandWord) (param : BitVec 32) (data : List Byte)
  | label (code : Byte) (args : List Int)
  | status (block : Block)
  deriving DecidableEq, Repr

/-- Why a word is no operation, or none that may be selected where it stands. -/
inductive DecodeError
  /-- a command word whose `op` is above 0x0D (30_encoding.md R112) -/
  | illegalOp (op : Byte)
  /-- a label code of no UOP or ENV row (30_encoding.md R113) -/
  | unknownLabel (code : Byte)
  /-- an operand outside the range of its rule -/
  | operandOutOfRange
  /-- more operands than the rule has -/
  | tooManyOperands
  /-- a status block in which no named event is present (30_encoding.md R111) -/
  | noEvent
  /-- the label code of an internal micro-operation in an agent's turn, or another code where a rule invokes one
  (30_encoding.md R100): raised by the fetch -/
  | notSelectable (code : Byte)
  deriving DecidableEq, Repr

/-- The 8-bit label code of each operation (30_encoding.md R113). -/
def Instr.labelCode : Instr → Byte
  | .probe => 0x00 | .adcAsyncRead .. => 0x01 | .adcSyncRead .. => 0x02 | .batteryVoltage _ => 0x03
  | .notifyUsbCurlim _ => 0x04 | .readRegisterBlock .. => 0x05 | .writeRegisterBlock .. => 0x06
  | .setBits .. => 0x07 | .clearBits .. => 0x08 | .ready => 0x09 | .waitUntilReady .. => 0x0A
  | .goStandby => 0x0B | .suspend => 0x0C | .resume => 0x0D
  | .adcEnqueue .. => 0x40 | .adcStart _ => 0x41 | .adcComplete => 0x42 | .classify .. => 0x43
  | .applyPolicy _ => 0x44 | .setCurrentLimit _ => 0x45 | .chargeEnable _ => 0x46
  | .autoresumeHandshake => 0x47 | .classifyTrigger => 0x48 | .classifyDone .. => 0x49
  | .curlimTask => 0x4A | .batfullDance => 0x4B | .dispatch => 0x4C | .nobatStart => 0x4D | .nobatPoll => 0x4E
  | .evChgIns => 0x80 | .evChgRem => 0x81 | .evUsbIns => 0x82 | .evUsbRem => 0x83 | .evAlarm => 0x84
  | .evTick => 0x85 | .evOnkeyF => 0x86 | .evOnkeyR => 0x87 | .evOnkey1s => 0x88 | .evBatfull => 0x89
  | .evChghalt => 0x8A | .evThlimOn => 0x8B | .evThlimOff => 0x8C | .evUsblimOn => 0x8D
  | .evUsblimOff => 0x8E | .evAdcRdy => 0x8F | .evLowbat => 0x90 | .evLowsys => 0x91 | .evHightemp => 0x92
  | .evAutopwrfail => 0x93 | .evSubregFail0 => 0x94 | .evSubregFail1 => 0x95 | .evSubregFail2 => 0x96
  | .evSubregFail3 => 0x97 | .evSubregFail4 => 0x98 | .evSubregFail5 => 0x99 | .evSubregFail6 => 0x9A
  | .evSubregFail7 => 0x9B | .evSubregFail8 => 0x9C | .evSubregFail9 => 0x9D | .evLedFail => 0x9E
  | .evLedOvp => 0x9F
  | .pmuRaise .. => 0xC0 | .adcHwDone _ => 0xC1 | .irqEdge => 0xC2 | .envSetStatus .. => 0xC3
  | .envRtcWant _ => 0xC4

/-- The EVT operation of an event. -/
def Event.instr : Event → Instr
  | .chgIns => .evChgIns | .chgRem => .evChgRem | .usbIns => .evUsbIns | .usbRem => .evUsbRem
  | .alarm => .evAlarm | .tick => .evTick | .onkeyF => .evOnkeyF | .onkeyR => .evOnkeyR
  | .onkey1s => .evOnkey1s | .batfull => .evBatfull | .chghalt => .evChghalt | .thlimOn => .evThlimOn
  | .thlimOff => .evThlimOff | .usblimOn => .evUsblimOn | .usblimOff => .evUsblimOff | .adcRdy => .evAdcRdy
  | .lowbat => .evLowbat | .lowsys => .evLowsys | .hightemp => .evHightemp | .autopwrfail => .evAutopwrfail
  | .subregFail 0 => .evSubregFail0 | .subregFail 1 => .evSubregFail1 | .subregFail 2 => .evSubregFail2
  | .subregFail 3 => .evSubregFail3 | .subregFail 4 => .evSubregFail4 | .subregFail 5 => .evSubregFail5
  | .subregFail 6 => .evSubregFail6 | .subregFail 7 => .evSubregFail7 | .subregFail 8 => .evSubregFail8
  | .subregFail 9 => .evSubregFail9
  | .ledFail => .evLedFail | .ledOvp => .evLedOvp

/-- The label codes of the internal micro-operations (30_encoding.md R100, R113): the UOP rows but the three deferred
tasks CURLIM_TASK, DISPATCH and NOBAT_POLL, which are agents of their own (00_scope.md R9). -/
def internalCode (code : Byte) : Bool :=
  [0x40#8, 0x41#8, 0x42#8, 0x43#8, 0x44#8, 0x45#8, 0x46#8, 0x47#8, 0x48#8, 0x49#8, 0x4B#8, 0x4D#8].elem code

/-! ### Operands of a label word -/

/-- An unsigned operand of `k` bits. -/
def argBits (k : Nat) (x : Int) : Option (BitVec k) :=
  if 0 ≤ x ∧ x < 2 ^ k then some (BitVec.ofNat k x.toNat) else none

/-- A natural-number operand. -/
def argNat (x : Int) : Option Nat := if 0 ≤ x then some x.toNat else none

/-- A Boolean operand, 0 or 1. -/
def argBool (x : Int) : Option Bool := if x = 0 then some false else if x = 1 then some true else none

/-- An index below `n + 1`. -/
def argFin (n : Nat) (x : Int) : Option (Fin (n + 1)) :=
  if h : 0 ≤ x ∧ x.toNat < n + 1 then some ⟨x.toNat, h.2⟩ else none

/-- A request target: its tag (30_encoding.md R110) and, for the first two, the id. -/
def argTarget (tag id : Int) : Option Target :=
  if tag = 0 then (argBits 8 id).map .sync
  else if tag = 1 then (argBits 8 id).map .callback
  else if tag = 2 then some .classify
  else none

/-- A request: `chan`, `avg`, target tag, target id, `param`. -/
def argRequest (arg : Nat → Int) : Option AdcRequest :=
  match argBits 4 (arg 0), argBits 2 (arg 1), argTarget (arg 2) (arg 3), argNat (arg 4) with
  | some chan, some avg, some target, some param =>
    if ParamInRange target param then some ⟨chan, avg, target, param⟩ else none
  | _, _, _, _ => none

/-- A charger type (30_encoding.md R110). -/
def argType (x : Int) : Option ChargerType :=
  if x = 0 then some .none else if x = 1 then some .hostLimited else if x = 2 then some .oneAmp else none

/-- A conversion sample, 0..1023 (41_charger_fsm.md R170). -/
def argSample (x : Int) : Option Int := if SampleInRange x then some x else none

/-- PWRSTAT (0) or BATSTAT (1). -/
def argStatusReg (x : Int) : Option StatusReg :=
  if x = 0 then some .pwrstat else if x = 1 then some .batstat else none

/-- At most `arity` operands (missing ones read as 0), each in range. -/
def operands (arity : Nat) (args : List Int) (r : Option Instr) : Except DecodeError Instr :=
  if arity < args.length then .error .tooManyOperands
  else match r with
    | some i => .ok i
    | none => .error .operandOutOfRange

/-! ### The decoder -/

/-- The command port (30_encoding.md R101, R112). -/
def decodeCommand (w : CommandWord) (param : BitVec 32) (data : List Byte) : Except DecodeError Instr :=
  match (CommandWord.op w).toNat with
  | 0x00 => .ok .probe
  | 0x01 => .ok (.adcAsyncRead (CommandWord.chan w) (CommandWord.avg w) (CommandWord.c w) param)
  | 0x02 => .ok (.adcSyncRead (CommandWord.chan w) (CommandWord.avg w) (CommandWord.c w))
  | 0x03 => .ok (.batteryVoltage (CommandWord.c w))
  | 0x04 => .ok (.notifyUsbCurlim (CommandWord.imm16 w))
  | 0x05 => .ok (.readRegisterBlock (CommandWord.a w) (CommandWord.b w))
  | 0x06 => .ok (.writeRegisterBlock (CommandWord.a w) (CommandWord.b w) data)
  | 0x07 => .ok (.setBits (CommandWord.a w) (CommandWord.b w))
  | 0x08 => .ok (.clearBits (CommandWord.a w) (CommandWord.b w))
  | 0x09 => .ok .ready
  | 0x0A => .ok (.waitUntilReady (CommandWord.imm16 w) (CommandWord.c w))
  | 0x0B => .ok .goStandby
  | 0x0C => .ok .suspend
  | 0x0D => .ok .resume
  | _ => .error (.illegalOp (CommandWord.op w))

/-- The UOP and ENV label codes (30_encoding.md R113) with their operands. -/
def decodeLabel (code : Byte) (args : List Int) : Except DecodeError Instr :=
  let arg := fun k => args.getD k 0
  match code.toNat with
  | 0x40 => operands 5 args ((argRequest arg).map fun r => .adcEnqueue r.chan r.avg r.target r.param)
  | 0x41 => operands 5 args ((argRequest arg).map .adcStart)
  | 0x42 => operands 0 args (some .adcComplete)
  | 0x43 => operands 2 args ((argSample (arg 0)).bind fun r => (argBool (arg 1)).map (.classify r))
  | 0x44 => operands 1 args ((argType (arg 0)).map .applyPolicy)
  | 0x45 => operands 1 args ((argNat (arg 0)).map .setCurrentLimit)
  | 0x46 => operands 1 args ((argBool (arg 0)).map .chargeEnable)
  | 0x47 => operands 0 args (some .autoresumeHandshake)
  | 0x48 => operands 0 args (some .classifyTrigger)
  | 0x49 => operands 2 args ((argNat (arg 0)).bind fun n => (argSample (arg 1)).map (.classifyDone n))
  | 0x4A => operands 0 args (some .curlimTask)
  | 0x4B => operands 0 args (some .batfullDance)
  | 0x4C => operands 0 args (some .dispatch)
  | 0x4D => operands 0 args (some .nobatStart)
  | 0x4E => operands 0 args (some .nobatPoll)
  | 0xC0 => operands 2 args ((argFin 4 (arg 0)).bind fun i => (argFin 7 (arg 1)).map (.pmuRaise i))
  | 0xC1 => operands 1 args ((argBits 10 (arg 0)).map .adcHwDone)
  | 0xC2 => operands 0 args (some .irqEdge)
  | 0xC3 => operands 2 args ((argStatusReg (arg 0)).bind fun r => (argBits 8 (arg 1)).map (.envSetStatus r))
  | 0xC4 => operands 1 args ((argBool (arg 0)).map .envRtcWant)
  | _ => .error (.unknownLabel code)

/-- The first event of the processing order that is present in a block (30_encoding.md R102, R104). -/
def decodeStatus (cfg : Config) (block : Block) : Except DecodeError Instr :=
  match cfg.firstPresent block Event.order with
  | some e => .ok e.instr
  | none => .error .noEvent

/-- The decoder. -/
def decode (cfg : Config) : OpWord → Except DecodeError Instr
  | .command w param data => decodeCommand w param data
  | .label code args => decodeLabel code args
  | .status block => decodeStatus cfg block

/-! ### The encoder -/

/-- The word `op:a:b:c` (30_encoding.md R101). -/
def commandWord (op a b c : Byte) : CommandWord := op ++ a ++ b ++ c

/-- The operands of a target: tag and id (30_encoding.md R110). -/
def Target.args : Target → List Int
  | .sync w => [0, w.toNat]
  | .callback f => [1, f.toNat]
  | .classify => [2, 0]

/-- The code of a charger type (30_encoding.md R110). -/
def ChargerType.code : ChargerType → Nat
  | .none => 0
  | .hostLimited => 1
  | .oneAmp => 2

/-- The operands of a request. -/
def AdcRequest.args (r : AdcRequest) : List Int :=
  [(r.chan.toNat : Int), r.avg.toNat] ++ r.target.args ++ [(r.param : Int)]

/-- A Boolean operand. -/
def boolArg (b : Bool) : Int := if b then 1 else 0

/-- The word of an operation. -/
def encode (cfg : Config) : Instr → OpWord
  | .probe => .command (commandWord 0x00 0 0 0) 0 []
  | .adcAsyncRead chan avg f param =>
    .command (commandWord 0x01 (chan.setWidth 8) (avg.setWidth 8) f) param []
  | .adcSyncRead chan avg w => .command (commandWord 0x02 (chan.setWidth 8) (avg.setWidth 8) w) 0 []
  | .batteryVoltage w => .command (commandWord 0x03 0 0 w) 0 []
  | .notifyUsbCurlim ma => .command (commandWord 0x04 (ma.extractLsb' 8 8) (ma.extractLsb' 0 8) 0) 0 []
  | .readRegisterBlock reg count => .command (commandWord 0x05 reg count 0) 0 []
  | .writeRegisterBlock reg count data => .command (commandWord 0x06 reg count 0) 0 data
  | .setBits reg mask => .command (commandWord 0x07 reg mask 0) 0 []
  | .clearBits reg mask => .command (commandWord 0x08 reg mask 0) 0 []
  | .ready => .command (commandWord 0x09 0 0 0) 0 []
  | .waitUntilReady t w => .command (commandWord 0x0A (t.extractLsb' 8 8) (t.extractLsb' 0 8) w) 0 []
  | .goStandby => .command (commandWord 0x0B 0 0 0) 0 []
  | .suspend => .command (commandWord 0x0C 0 0 0) 0 []
  | .resume => .command (commandWord 0x0D 0 0 0) 0 []
  | .adcEnqueue chan avg target param => .label 0x40 (AdcRequest.args ⟨chan, avg, target, param⟩)
  | .adcStart r => .label 0x41 r.args
  | .adcComplete => .label 0x42 []
  | .classify sample usb => .label 0x43 [sample, boolArg usb]
  | .applyPolicy t => .label 0x44 [(t.code : Int)]
  | .setCurrentLimit ma => .label 0x45 [(ma : Int)]
  | .chargeEnable on => .label 0x46 [boolArg on]
  | .autoresumeHandshake => .label 0x47 []
  | .classifyTrigger => .label 0x48 []
  | .classifyDone n r => .label 0x49 [(n : Int), r]
  | .curlimTask => .label 0x4A []
  | .batfullDance => .label 0x4B []
  | .dispatch => .label 0x4C []
  | .nobatStart => .label 0x4D []
  | .nobatPoll => .label 0x4E []
  | .evChgIns => .status (cfg.eventMask .chgIns)
  | .evChgRem => .status (cfg.eventMask .chgRem)
  | .evUsbIns => .status (cfg.eventMask .usbIns)
  | .evUsbRem => .status (cfg.eventMask .usbRem)
  | .evAlarm => .status (cfg.eventMask .alarm)
  | .evTick => .status (cfg.eventMask .tick)
  | .evOnkeyF => .status (cfg.eventMask .onkeyF)
  | .evOnkeyR => .status (cfg.eventMask .onkeyR)
  | .evOnkey1s => .status (cfg.eventMask .onkey1s)
  | .evBatfull => .status (cfg.eventMask .batfull)
  | .evChghalt => .status (cfg.eventMask .chghalt)
  | .evThlimOn => .status (cfg.eventMask .thlimOn)
  | .evThlimOff => .status (cfg.eventMask .thlimOff)
  | .evUsblimOn => .status (cfg.eventMask .usblimOn)
  | .evUsblimOff => .status (cfg.eventMask .usblimOff)
  | .evAdcRdy => .status (cfg.eventMask .adcRdy)
  | .evLowbat => .status (cfg.eventMask .lowbat)
  | .evLowsys => .status (cfg.eventMask .lowsys)
  | .evHightemp => .status (cfg.eventMask .hightemp)
  | .evAutopwrfail => .status (cfg.eventMask .autopwrfail)
  | .evSubregFail0 => .status (cfg.eventMask (.subregFail 0))
  | .evSubregFail1 => .status (cfg.eventMask (.subregFail 1))
  | .evSubregFail2 => .status (cfg.eventMask (.subregFail 2))
  | .evSubregFail3 => .status (cfg.eventMask (.subregFail 3))
  | .evSubregFail4 => .status (cfg.eventMask (.subregFail 4))
  | .evSubregFail5 => .status (cfg.eventMask (.subregFail 5))
  | .evSubregFail6 => .status (cfg.eventMask (.subregFail 6))
  | .evSubregFail7 => .status (cfg.eventMask (.subregFail 7))
  | .evSubregFail8 => .status (cfg.eventMask (.subregFail 8))
  | .evSubregFail9 => .status (cfg.eventMask (.subregFail 9))
  | .evLedFail => .status (cfg.eventMask .ledFail)
  | .evLedOvp => .status (cfg.eventMask .ledOvp)
  | .pmuRaise i b => .label 0xC0 [(i.val : Int), b.val]
  | .adcHwDone v => .label 0xC1 [(v.toNat : Int)]
  | .irqEdge => .label 0xC2 []
  | .envSetStatus .pwrstat v => .label 0xC3 [0, v.toNat]
  | .envSetStatus .batstat v => .label 0xC3 [1, v.toNat]
  | .envRtcWant b => .label 0xC4 [boolArg b]

/-! ### The words of spec/opcode_table.json -/

/-- Whether an 8-bit number is the label code of a UOP or ENV row (30_encoding.md R113). -/
def isLabelCode (w : Nat) : Bool := (0x40 ≤ w && w ≤ 0x4E) || (0xC0 ≤ w && w ≤ 0xC4)

/-- The operation word of a row of the opcode table, given as `w` on `nbits` bits. The formats have different widths
(30_encoding.md R100 to R102): 32 bits is a command word (its sidebands zero), 8 bits a label code (its operands zero),
40 bits a status block. A word that is neither command nor label is a status block whose bits above `nbits` are zero
(log 19). -/
def tableWord (nbits w : Nat) : OpWord :=
  if nbits == 32 && w >>> 24 ≤ 0x0D then
    .command (BitVec.ofNat 32 w) 0 (if w >>> 24 = 0x06 then List.replicate ((w >>> 8) % 256) 0 else [])
  else if nbits == 8 && isLabelCode w then .label (BitVec.ofNat 8 w) []
  else .status (BitVec.ofNat 40 w)

/-- The instruction the decoder reads from a row's word, under the layout of 30_encoding.md R103. -/
def decodeTableWord (nbits w : Nat) : Option Instr :=
  match decode Config.test (tableWord nbits w) with
  | .ok i => some i
  | .error _ => none

end Sys2Proof
end

