-- ==== Sys2Proof/Machine/State.lean ====
section
/-! DEFINITION. The state of one device instance (10_state.md), the register space, the model's own fields (the schedule,
the environment's draws, the trace), the reasons a step can stop, and the state after reset (10_state.md R61). -/

namespace Sys2Proof.Machine

/-- The suspend states (10_state.md R21). -/
inductive SuspendState
  | running
  | startingSuspend
  | completedSuspend
  | startingResume
  | completedResume
  deriving DecidableEq, Repr

/-- The six event flags (10_state.md R22). No rule writes or reads `chgReady` and `chgError`. -/
structure Flags where
  chgPresent : Bool
  usbPresent : Bool
  chgEnabled : Bool
  chgProt : Bool
  chgReady : Bool
  chgError : Bool
  deriving DecidableEq, Repr

/-- The state of a deferred task (10_state.md R36). -/
inductive TaskState
  | idle
  | running
  | runningResched
  deriving DecidableEq, Repr

/-- The next micro-step of a Dispatcher pass (42_interrupt_dispatcher.md R200). -/
inductive MicroStep
  | read
  | step4
  | step5
  /-- the rule of an event that is present in the block; of EV_USB_INS the part (a) -/
  | event (e : Event)
  /-- the part (b) of EV_USB_INS (42_interrupt_dispatcher.md R212) -/
  | usbInsB
  | exit
  deriving DecidableEq, Repr

/-- The position of a running pass (10_state.md R57). `coldPlug` is set by the STEP5 that performs the cold-plug
(log 17). -/
structure Pass where
  block : Block
  next : MicroStep
  coldPlug : Bool
  deriving DecidableEq, Repr

/-- The no-battery poller (10_state.md R37). -/
structure Nobat where
  running : Bool
  snapshot : Nat
  deriving DecidableEq, Repr

/-- The USB-limit notifier (10_state.md R38). -/
structure Curlim where
  task : TaskState
  scheduled : Bool
  pendingMa : Nat
  snapshot : Nat
  deriving DecidableEq, Repr

/-- The converter (10_state.md R56). -/
inductive AdcHw
  | idle
  | converting (chan : BitVec 4) (avg : BitVec 2)
  deriving DecidableEq, Repr

/-- What a blocked caller waits for (10_state.md R43). -/
inductive WaitFor
  /-- the raw result of a synchronous read (40_adc_scheduler.md R144) -/
  | adcRead
  /-- a synchronous read to be scaled to millivolts (40_adc_scheduler.md R145) -/
  | battery
  /-- readiness, until a deadline (43_suspend_and_tasks.md R266) -/
  | ready (deadline : Nat)
  deriving DecidableEq, Repr

/-- A blocked caller, and the conversion result once its request completed (40_adc_scheduler.md R142, R144). -/
structure Waiter where
  caller : Byte
  waitFor : WaitFor
  result : Option (BitVec 10)
  deriving DecidableEq, Repr

/-- The error codes (60_exceptions.md R307). Their numbers are parameters (`Config.errors`). -/
inductive ErrorCode
  | access
  | busy
  | suspendViolation
  | range
  | queueFull
  | bus
  | timeout
  deriving DecidableEq, Repr

/-- What `notify` says (00_scope.md R11). -/
inductive NotifyKind
  | chargerInsert | chargerRemove | usbInsert | usbRemove | chargerActive | chargerIdle | chargerChange
  deriving DecidableEq, Repr

/-- What `rtc` says (00_scope.md R11). -/
inductive RtcKind
  | alarm | secondTick
  deriving DecidableEq, Repr

/-- What `platform` says (00_scope.md R11). -/
inductive PlatformKind
  | statusChanged | lowBattery | criticalSuspend
  deriving DecidableEq, Repr

/-- The warnings (60_exceptions.md R310). -/
inductive WarnKind
  | classifyDropped | autoPowerFail | subregFail (k : Fin 10) | ledFail | ledOvp
  deriving DecidableEq, Repr

/-- The defects (60_exceptions.md R310). -/
inductive DefectKind
  | adcQueueFull | adcReadyEmptyFifo | suspendViolation
  deriving DecidableEq, Repr

/-- The output events (00_scope.md R11). -/
inductive Output
  | notify (k : NotifyKind)
  | inputKey (down : Bool)
  /-- `input_power(charger, present)`: the charger is the one source reported (90_conflicts.md C9) -/
  | inputPower (present : Bool)
  | inputFlush
  | rtc (k : RtcKind)
  | platform (k : PlatformKind)
  | shutdownRequest
  | adcDone (target : Target) (param : Nat) (result : Int)
  | warn (k : WarnKind)
  | defect (k : DefectKind)
  deriving DecidableEq, Repr

/-- What an operation hands back to whoever issued it (30_encoding.md R114). -/
inductive ReturnValue
  /-- 0 or a non-negative number -/
  | value (v : Int)
  | bool (b : Bool)
  | bytes (l : List Byte)
  | charger (t : ChargerType)
  | error (e : ErrorCode)
  deriving DecidableEq, Repr

/-- A returned value, with the caller id where the command carries one. -/
structure Return where
  caller : Option Byte
  value : ReturnValue
  deriving DecidableEq, Repr

/-- The environment's draws for one step (00_scope.md R8 `draw`, 93_implementation_defined.md U2 to U4, U9 to U11).
FREE VALUES: no rule constrains them (log 9). -/
structure Draws where
  /-- time that passed before the step (00_scope.md R12) -/
  elapsed : Nat
  /-- `some k`: the status read returns only `k` bytes (20_memory.md R73) -/
  shortRead : Option (Fin 5)
  /-- the transport answers BusError to a register primitive (43_suspend_and_tasks.md R268 to R271) -/
  busError : Bool
  /-- the platform's capability query (42_interrupt_dispatcher.md R226) -/
  reachable : Bool
  /-- undefined bytes: of ADCRES_LO (40_adc_scheduler.md R146), of a written read-only register (U3) -/
  junk : List Byte
  /-- which bytes of a failed block write were stored (U4) -/
  stored : List Bool
  deriving DecidableEq, Repr

/-- No time passed, nothing failed, every open byte zero. -/
def Draws.zero : Draws := ⟨0, none, false, false, [], []⟩

/-- Whose turn it is (00_scope.md R9). -/
inductive Request
  /-- a caller issues a command word with its sidebands (30_encoding.md R101) -/
  | command (word : CommandWord) (param : BitVec 32) (data : List Byte)
  /-- a deferred task or an environment input, by its label code (30_encoding.md R113) -/
  | label (code : Byte) (args : List Int)
  /-- the second transition of SUSPEND or RESUME (43_suspend_and_tasks.md R260, R261) -/
  | coordinator
  /-- a blocked caller wakes up (40_adc_scheduler.md R144, 43_suspend_and_tasks.md R266) -/
  | wake (w : Byte)
  /-- only time passes -/
  | idle
  deriving DecidableEq, Repr

/-- One turn of the schedule, with the draws it brings. -/
structure Turn where
  request : Request
  draws : Draws
  deriving DecidableEq, Repr

/-- A micro-operation that a rule invokes by name, by its label code and operands (30_encoding.md R100, R113). -/
structure Invocation where
  code : Byte
  args : List Int
  deriving DecidableEq, Repr

/-- The register space: the registers that do not hold the unlisted byte, addresses strictly rising (20_memory.md R70). -/
abbrev Memory := List Host.Cell

/-- What a register reads as that nothing has written: DESIGN CHOICE (log 4), the spec leaves it open (U1). -/
def unlisted : Byte := 0x00

/-- The state of one instance. -/
structure State where
  /-- the configuration record (00_scope.md R6), changed by no rule -/
  cfg : Config
  suspend : SuspendState
  flags : Flags
  lastCurlim : Nat
  usbRemovalCount : Nat
  coldplugDone : Bool
  onkeySeconds : Int
  resumeSnapshot : Bytes5
  onkeyPressed : Bool
  suppressOnkey : Bool
  lastBatInsert : Option Nat
  rtcWantsTick : Bool
  savedMask : Bytes5
  probed : Bool
  standbyIssued : Bool
  irqDelivery : Bool
  disp : TaskState
  dispatchReq : Bool
  pass : Option Pass
  nobat : Nobat
  curlim : Curlim
  slots : List (Option AdcRequest)
  head : Nat
  tail : Nat
  waiters : List Waiter
  adcHw : AdcHw
  irqSeen : Bool
  /-- the PMU's registers -/
  regs : Memory
  /-- the model's own: the trace of output events, oldest first -/
  outputs : List Output
  /-- the model's own: the values handed back, oldest first -/
  returns : List Return
  /-- the model's own: the last drawn time -/
  now : Nat
  /-- the model's own: the draws of the current step -/
  draws : Draws
  /-- the model's own: the turns still to come -/
  port : List Turn
  /-- the model's own: a micro-operation about to run because a rule invokes it (log 10); the rules of this model run
  theirs inside their own transition, so no step leaves one here -/
  invoked : Option Invocation
  deriving DecidableEq, Repr

/-- Why the machine stops. -/
inductive Fault
  /-- any step or meaning after the standby command was written: the device was asked to power off and no rule is enabled
  any more (10_state.md R34, U8). Safe: the model stops. -/
  | poweredDown
  /-- a step under a configuration outside the constraints of U17, which no hardware has. Safe: the model stops. -/
  | badConfiguration
  deriving DecidableEq, Repr

/-- Why an operation has no meaning here. -/
inductive Refusal
  /-- an instruction without a meaning yet: raised by no arm of this model -/
  | notModelled (mnemonic : String)
  /-- a pass in progress without its position, or a micro-step, event or micro-operation while the access gate is closed:
  combinations that no sequence of rules reaches (U14, `refuse`). Raised by DISPATCH, the events and the
  micro-operations. Safe: the model stops. -/
  | forcedState
  /-- slots that contradict `head` and `tail` (U14, `refuse`; 10_state.md R42). Raised by ADC_COMPLETE and EV_ADC_RDY.
  Safe: the model stops. -/
  | brokenFifo
  /-- CLASSIFY or CLASSIFY_DONE of a value outside 0..1023 (U7, `refuse`; 41_charger_fsm.md R170). Safe: the model
  stops. -/
  | sampleOutsideDomain
  /-- a turn whose label word is no operation, or an internal micro-operation that no agent can select (30_encoding.md
  R100), raised by the step. Safe: the model stops. -/
  | undecodable (why : DecodeError)
  deriving DecidableEq, Repr

/-- What a meaning answers. -/
abbrev Result := Host.Outcome State Fault Refusal

/-- The state of 10_state.md R61 over given registers, with the model's own fields empty. -/
def State.afterProbe (cfg : Config) (regs : Memory) : State where
  cfg := cfg
  suspend := .running
  flags := ⟨false, false, false, false, false, false⟩
  lastCurlim := 0
  usbRemovalCount := 0
  coldplugDone := false
  onkeySeconds := -1
  resumeSnapshot := ⟨0, 0, 0, 0, 0⟩
  onkeyPressed := false
  suppressOnkey := false
  lastBatInsert := none
  rtcWantsTick := false
  savedMask := ⟨0, 0, 0, 0, 0⟩
  probed := true
  standbyIssued := false
  irqDelivery := true
  disp := .idle
  dispatchReq := false
  pass := none
  nobat := ⟨false, 0⟩
  curlim := ⟨.idle, false, 0, 0⟩
  slots := List.replicate cfg.depth none
  head := 0
  tail := 0
  waiters := []
  adcHw := .idle
  irqSeen := false
  regs := regs
  outputs := []
  returns := []
  now := 0
  draws := Draws.zero
  port := []
  invoked := none

/-- The machine right after reset: reset is the operation PROBE (70_reset_and_hazards.md R340), so this is the state of
10_state.md R61; registers as log 4 says, configuration as log 2 says. -/
def State.reset : State := State.afterProbe Config.test []

/-- The machine before PROBE (10_state.md R33): the same, not probed. -/
def State.powerUp : State := { State.reset with probed := false }

end Sys2Proof.Machine
end

