-- ==== Sys2Proof/Machine/Memory.lean ====
section
/-! DEFINITION. The register space (20_memory.md R70): reading and writing one register, and the canonical form. -/

namespace Sys2Proof.Machine

/-- The value of register `a`. -/
def Memory.read : Memory → Nat → Byte
  | [], _ => unlisted
  | (b, w) :: m, a => if a < b then unlisted else if a = b then w else Memory.read m a

/-- The entries with `(a, v)` in front, or without it where `v` is what an unlisted register reads as. -/
def Memory.entry (a : Nat) (v : Byte) (m : Memory) : Memory := if v = unlisted then m else (a, v) :: m

/-- The entries after register `a` took the value `v`. -/
def Memory.insert : Memory → Nat → Byte → Memory
  | [], a, v => Memory.entry a v []
  | (b, w) :: m, a, v =>
    if a < b then Memory.entry a v ((b, w) :: m)
    else if a = b then Memory.entry a v m
    else (b, w) :: Memory.insert m a v

/-- Writing register `a`. A register number is 8 bits (20_memory.md R70): nothing stands above 255. -/
def Memory.write (m : Memory) (a : Nat) (v : Byte) : Memory := if a < 256 then Memory.insert m a v else m

/-- Every address of the list is above `a`. -/
def Memory.above (a : Nat) (m : Memory) : Bool := m.all fun c => decide (a < c.1)

/-- The canonical form: addresses strictly rising and below 256, no entry that reads as an unlisted register. -/
def Memory.wf : Memory → Bool
  | [] => true
  | (a, v) :: m => decide (a < 256) && v != unlisted && Memory.above a m && Memory.wf m

end Sys2Proof.Machine
end

