-- ==== Sys2Proof/Machine/Flags.lean ====
section
/-! DEFINITION. The derived signals and the flags: the event flags of 10_state.md R22, the interrupt line (R58), the access
gate (20_memory.md R79), presence of power (10_state.md R53) and of a battery (R54). -/

namespace Sys2Proof.Machine

/-- The PMU's register `a`. -/
def State.reg (s : State) (a : Nat) : Byte := Memory.read s.regs a

/-- The number of `INT[i]` (10_state.md R45). -/
def State.intAt (s : State) (i : Nat) : Nat := s.cfg.aInt.toNat + i

/-- The number of `INTM[i]` (10_state.md R46). -/
def State.intmAt (s : State) (i : Nat) : Nat := s.cfg.aIntm.toNat + i

/-- Source byte `i` asserts the line: `INT[i] & ~INTM[i] != 0`. -/
def State.asserts (s : State) (i : Nat) : Bool := s.reg (s.intAt i) &&& ~~~(s.reg (s.intmAt i)) != 0

/-- `irq_line` (10_state.md R58). -/
def State.irqLine (s : State) : Bool := s.asserts 0 || s.asserts 1 || s.asserts 2 || s.asserts 3 || s.asserts 4

/-- `AccessAllowed(s)` (20_memory.md R79). -/
def State.accessAllowed (s : State) : Bool := s.suspend == .running || s.suspend == .completedResume

/-- `READY` (43_suspend_and_tasks.md R265). -/
def State.isReady (s : State) : Bool := s.probed && s.accessAllowed

/-- All bits of `m` are set in `v`. -/
def allSet (v m : Byte) : Bool := v &&& m == m

/-- USB power is present and valid (10_state.md R53). -/
def State.usbOk (s : State) : Bool := allSet (s.reg s.cfg.aPwrstat.toNat) s.cfg.usbOkMask

/-- A charger is present and valid (10_state.md R53). -/
def State.chgOk (s : State) : Bool := allSet (s.reg s.cfg.aPwrstat.toNat) s.cfg.chgOkMask

/-- A battery is present (10_state.md R54). -/
def State.batteryPresent (s : State) : Bool := s.reg s.cfg.aBatstat.toNat &&& s.cfg.batPresentMask != 0

/-- Setting `flags.chg_present`. -/
def State.setChgPresent (s : State) (b : Bool) : State := { s with flags := { s.flags with chgPresent := b } }

/-- Setting `flags.usb_present`. -/
def State.setUsbPresent (s : State) (b : Bool) : State := { s with flags := { s.flags with usbPresent := b } }

/-- Setting `flags.chg_enabled`. -/
def State.setChgEnabled (s : State) (b : Bool) : State := { s with flags := { s.flags with chgEnabled := b } }

/-- Setting `flags.chg_prot`. -/
def State.setChgProt (s : State) (b : Bool) : State := { s with flags := { s.flags with chgProt := b } }

end Sys2Proof.Machine
end

