-- ==== Sys2Proof/Machine/Operands.lean ====
section
/-! DEFINITION. Operand assembly: the ADC control byte (30_encoding.md R105) and the result (R106), the tiers (R107), the
classification threshold (41_charger_fsm.md R170), index arithmetic (40_adc_scheduler.md R149), the on-key mask
(42_interrupt_dispatcher.md R204), the battery scale (40_adc_scheduler.md R145), the error numbers (30_encoding.md R114). -/

namespace Sys2Proof.Machine

/-- The byte that starts a conversion (30_encoding.md R105): `(chan << 4) | (avg << 2) | (RES10 << 1) | START` with
`RES10 = 0`, `START = 1`, over the layout parameter. -/
def adcctlByte (cfg : Config) (chan : BitVec 4) (avg : BitVec 2) : Byte :=
  (chan.setWidth 8 <<< cfg.adcctl.chanShift) ||| (avg.setWidth 8 <<< cfg.adcctl.avgShift) |||
    (0#8 <<< cfg.adcctl.res10Bit) ||| (1#8 <<< cfg.adcctl.startBit)

/-- The start bit of a control byte. -/
def adcctlStarts (cfg : Config) (v : Byte) : Bool := v.getLsbD cfg.adcctl.startBit

/-- The channel of a control byte. -/
def adcctlChan (cfg : Config) (v : Byte) : BitVec 4 := (v >>> cfg.adcctl.chanShift).setWidth 4

/-- The averaging mode of a control byte. -/
def adcctlAvg (cfg : Config) (v : Byte) : BitVec 2 := (v >>> cfg.adcctl.avgShift).setWidth 2

/-- `result = (zext_10(hi) << 2) | (lo & LO_MASK)` (30_encoding.md R106). -/
def assembleResult (cfg : Config) (hi lo : Byte) : BitVec 10 :=
  (hi.setWidth 10 <<< 2) ||| (lo &&& cfg.loMask).setWidth 10

/-- The supported tiers in milliamperes (30_encoding.md R107). -/
inductive Tier
  | suspend | ma100 | ma500 | ma1000
  deriving DecidableEq, Repr

/-- The current of a tier. -/
def Tier.ma : Tier → Nat
  | .suspend => 0 | .ma100 => 100 | .ma500 => 500 | .ma1000 => 1000

/-- `TIER_CODE[tier]` (30_encoding.md R107). -/
def Tier.code (cfg : Config) : Tier → Byte
  | .suspend => cfg.tierCode.suspend | .ma100 => cfg.tierCode.ma100
  | .ma500 => cfg.tierCode.ma500 | .ma1000 => cfg.tierCode.ma1000

/-- A tier is charging-capable exactly when it is 500 or 1000 (30_encoding.md R107). -/
def Tier.capable : Tier → Bool
  | .suspend => false | .ma100 => false | .ma500 => true | .ma1000 => true

/-- `Quantize(ma)`: the largest tier not above `ma` (30_encoding.md R107). -/
def quantize (ma : Nat) : Tier :=
  if 1000 ≤ ma then .ma1000 else if 500 ≤ ma then .ma500 else if 100 ≤ ma then .ma100 else .suspend

/-- The midpoint threshold (41_charger_fsm.md R170). -/
def threshold (cfg : Config) : Nat := (cfg.detectNone + cfg.detect1A) / 2

/-- `CLASSIFY(sample, usb_present)` (41_charger_fsm.md R170). -/
def classifySample (cfg : Config) (sample : Nat) (usbPresent : Bool) : ChargerType :=
  if sample < threshold cfg then .oneAmp else if usbPresent then .hostLimited else .none

/-- The next FIFO index, `(i + 1) mod N` (10_state.md R41). -/
def State.bump (s : State) (i : Nat) : Nat := (i + 1) % s.cfg.depth

/-- The request of slot `i`, if the slot is occupied. -/
def State.slot (s : State) (i : Nat) : Option AdcRequest := s.slots.getD i none

/-- The FIFO is empty (10_state.md R42 (a)). -/
def State.fifoEmpty (s : State) : Bool := s.head == s.tail

/-- The FIFO is full (10_state.md R42 (d)). -/
def State.fifoFull (s : State) : Bool := s.bump s.head == s.tail

/-- The number of pending requests, `(head - tail) mod N` (10_state.md R42 (c)). -/
def State.pendingCount (s : State) : Nat := (s.head + s.cfg.depth - s.tail) % s.cfg.depth

/-- The mask of the three on-key sources (42_interrupt_dispatcher.md R204). -/
def onkeyMask (cfg : Config) : Block :=
  cfg.eventMask .onkeyF ||| cfg.eventMask .onkeyR ||| cfg.eventMask .onkey1s

/-- The only reason for waking was the power key (42_interrupt_dispatcher.md R204). -/
def wakeByKeyOnly (cfg : Config) (block : Block) : Bool :=
  block != 0 && block &&& ~~~(onkeyMask cfg) == 0

/-- `BATT_MV_OFFSET + floor(r * BATT_MV_NUM / BATT_MV_DEN)` (40_adc_scheduler.md R145). -/
def millivolts (cfg : Config) (r : Nat) : Nat := cfg.battMvOffset + r * cfg.battMvNum / cfg.battMvDen

/-- The number of an error code (30_encoding.md R114). -/
def ErrorCode.number (cfg : Config) : ErrorCode → Int
  | .access => cfg.errors.access | .busy => cfg.errors.busy | .suspendViolation => cfg.errors.suspendViolation
  | .range => cfg.errors.range | .queueFull => cfg.errors.queueFull | .bus => cfg.errors.bus
  | .timeout => cfg.errors.timeout

/-- The register that ENV_SET_STATUS names. -/
def State.statusRegAt (s : State) : StatusReg → Nat
  | .pwrstat => s.cfg.aPwrstat.toNat
  | .batstat => s.cfg.aBatstat.toNat

end Sys2Proof.Machine
end

