-- ==== Sys2Proof/Machine/Ops.lean ====
section
/-! DEFINITION. The shared operations: output and return, the register transport (20_memory.md), the interrupt line
(42_interrupt_dispatcher.md R235), raising an error (60_exceptions.md R300, R305) and asking for a pass
(42_interrupt_dispatcher.md R200, R208), and the frames in which the meanings run. -/

namespace Sys2Proof.Machine

/-! ### Output and return -/

/-- `emit X` (00_scope.md R8). -/
def State.emit (s : State) (o : Output) : State := { s with outputs := s.outputs ++ [o] }

/-- Handing a value back to the issuer of the operation. -/
def State.ret (s : State) (caller : Option Byte) (v : ReturnValue) : State :=
  { s with returns := s.returns ++ [⟨caller, v⟩] }

/-- `raise E` (00_scope.md R8): the operation ends, the error goes to the caller, nothing else changes
(60_exceptions.md R309). -/
def State.raise (s : State) (caller : Option Byte) (e : ErrorCode) : State := s.ret caller (.error e)

/-- The suspend-ordering violation (60_exceptions.md R305): reported as a defect and as an error. -/
def State.violation (s : State) (caller : Option Byte) : State :=
  (s.emit (.defect .suspendViolation)).raise caller .suspendViolation

/-! ### The register transport -/

/-- `Reg[a] <- v`. -/
def State.setReg (s : State) (a : Nat) (v : Byte) : State := { s with regs := Memory.write s.regs a v }

/-- `SetBits(a, m)` (00_scope.md R8). -/
def State.setBitsAt (s : State) (a : Nat) (m : Byte) : State := s.setReg a (s.reg a ||| m)

/-- `ClearBits(a, m)` (00_scope.md R8). -/
def State.clearBitsAt (s : State) (a : Nat) (m : Byte) : State := s.setReg a (s.reg a &&& ~~~m)

/-- `SetMasked(a, m, v)` (00_scope.md R8). -/
def State.setMaskedAt (s : State) (a : Nat) (m v : Byte) : State :=
  s.setReg a ((s.reg a &&& ~~~m) ||| (v &&& m))

/-- `MemRead(a, n)`: `n` registers, ascending (20_memory.md R71). -/
def State.readBlock (s : State) (a n : Nat) : List Byte := (List.range n).map fun j => s.reg (a + j)

/-- `MemRead(a, 5)`. -/
def State.readGroup (s : State) (a : Nat) : Bytes5 :=
  ⟨s.reg a, s.reg (a + 1), s.reg (a + 2), s.reg (a + 3), s.reg (a + 4)⟩

/-- `MemWrite(a, 5, v)` (20_memory.md R72). -/
def State.writeGroup (s : State) (a : Nat) (v : Bytes5) : State :=
  ((((s.setReg a v.b0).setReg (a + 1) v.b1).setReg (a + 2) v.b2).setReg (a + 3) v.b3).setReg (a + 4) v.b4

/-- `irq_seen` is cleared in the step that makes the line fall (42_interrupt_dispatcher.md R235). -/
def State.settleLine (s : State) : State := { s with irqSeen := s.irqSeen && s.irqLine }

/-- The registers `a .. a+n-1` meet the group of five that starts at `g`. -/
def meets (a n g : Nat) : Bool := a < g + 5 && g < a + n

/-- The registers `a .. a+n-1` hold an interrupt-status or interrupt-mask register. -/
def State.touchesLine (s : State) (a n : Nat) : Bool :=
  meets a n s.cfg.aInt.toNat || meets a n s.cfg.aIntm.toNat

/-- The line after an access to `a .. a+n-1` (20_memory.md R85). -/
def State.settleAfter (s : State) (a n : Nat) : State := if s.touchesLine a n then s.settleLine else s

/-- Clearing `INT[i]` if it is one of `a .. a+n-1`. -/
def State.clearInt (s : State) (a n i : Nat) : State :=
  if a ≤ s.intAt i ∧ s.intAt i < a + n then s.setReg (s.intAt i) 0 else s

/-- The side effect of a read of `a .. a+n-1`: the status registers it covers are cleared (20_memory.md R77). -/
def State.clearCovered (s : State) (a n : Nat) : State :=
  ((((((s.clearInt a n 0).clearInt a n 1).clearInt a n 2).clearInt a n 3).clearInt a n 4)).settleAfter a n

/-- Register `a` is read-only to the block: INT, ADCRES, PWRSTAT, BATSTAT (93_implementation_defined.md U3). -/
def State.readOnly (s : State) (a : Nat) : Bool :=
  (s.cfg.aInt.toNat ≤ a && a < s.cfg.aInt.toNat + 5) || a == s.cfg.aAdcresHi.toNat || a == s.cfg.aAdcresLo.toNat ||
    a == s.cfg.aPwrstat.toNat || a == s.cfg.aBatstat.toNat

/-- A control byte stored to ADCCTL: with the start bit it (re)starts the converter (10_state.md R47, R56). -/
def State.adcctlWritten (s : State) (v : Byte) : State :=
  if adcctlStarts s.cfg v then { s with adcHw := .converting (adcctlChan s.cfg v) (adcctlAvg s.cfg v) } else s

/-- A byte stored to STANDBY: the whole command powers the device down (20_memory.md R77, 10_state.md R34; log 14). -/
def State.standbyWritten (s : State) (v : Byte) : State :=
  { s with standbyIssued := s.standbyIssued || allSet v s.cfg.standbyCmd }

/-- A host's write of one register with its effect on the PMU (20_memory.md R72, R77). A read-only register then holds
the undefined byte `junk` (93_implementation_defined.md U3). -/
def State.hostStore (s : State) (a : Nat) (v junk : Byte) : State :=
  if s.readOnly a then s.setReg a junk
  else if a = s.cfg.aAdcctl.toNat then (s.setReg a v).adcctlWritten v
  else if a = s.cfg.aStandby.toNat then (s.setReg a v).standbyWritten v
  else s.setReg a v

/-- A host's block write of `data` to `a, a+1, ...`; `junk` and `stored` are drawn byte by byte, and a byte whose draw of
`stored` is false leaves its register as it was (93_implementation_defined.md U4). -/
def State.hostStoreBlock (s : State) : Nat → List Byte → List Byte → List Bool → State
  | _, [], _, _ => s
  | a, v :: data, junk, stored =>
    (if stored.headD false then s.hostStore a v (junk.headD 0) else s).hostStoreBlock (a + 1) data junk.tail stored.tail

/-! ### The periodic tick's mask (30_encoding.md R109) -/

/-- The mask register of the periodic tick. -/
def State.tickMaskAt (s : State) : Nat := s.intmAt (s.cfg.pos .tick).byte.val

/-- The tick's bit in its mask register. -/
def State.tickBit (s : State) : Byte := 1#8 <<< (s.cfg.pos .tick).bit.val

/-- `MaskTick`. -/
def State.maskTick (s : State) : State := (s.setBitsAt s.tickMaskAt s.tickBit).settleLine

/-- `UnmaskTick`. -/
def State.unmaskTick (s : State) : State := (s.clearBitsAt s.tickMaskAt s.tickBit).settleLine

/-! ### Asking for a Dispatcher pass (42_interrupt_dispatcher.md R200, R208) -/

/-- `RequestDispatch`. -/
def State.requestDispatch (s : State) : State :=
  if s.disp = .idle then { s with dispatchReq := true } else { s with disp := .runningResched }

/-! ### The frames in which the meanings run -/

/-- After the standby command no rule is enabled (10_state.md R34, U8). -/
def powered (s : State) (r : Result) : Result := if s.standbyIssued then .fault .poweredDown else r

/-- A host command: refused with E_ACCESS before PROBE (60_exceptions.md R303). -/
def hostCommand (s : State) (caller : Option Byte) (body : State → State) : Result :=
  powered s (.next (if s.probed then body s else s.raise caller .access))

/-- The access gate of a host command (60_exceptions.md R305). -/
def throughGate (caller : Option Byte) (body : State → State) (s : State) : State :=
  if s.accessAllowed then body s else s.violation caller

/-- An internal micro-operation or an event: its invokers passed the access gate; with the gate closed it is a forced
state (20_memory.md R79, U14). Before PROBE no rule invokes one either (70_reset_and_hazards.md R340) and the spec says
nothing of the case: that it then has its effect as after PROBE is the model's, DESIGN CHOICE (log 10). -/
def internalOp (s : State) (r : Result) : Result :=
  powered s (if s.accessAllowed then r else .refused .forcedState)

/-- A transition with a guard: where the guard is false the transition does not happen and nothing changes (log 7). -/
def guarded (g : State → Bool) (body : State → State) (s : State) : State := if g s then body s else s

end Sys2Proof.Machine
end

