-- ==== Sys2Proof/Machine/Charger.lean ====
section
/-! DEFINITION. The charger machine below the scheduler (41_charger_fsm.md R170 to R175, R180): policy, current limit,
charge enable, the handshake, the battery-full dance, and their meanings as operations of their own. -/

namespace Sys2Proof.Machine

/-- `CHARGE_ENABLE(on)` (41_charger_fsm.md R174). -/
def chargeEnable (on : Bool) (s : State) : State :=
  if s.cfg.featCharger then
    if on then
      let t := (s.setChgEnabled true).setBitsAt s.cfg.aChgctl.toNat s.cfg.chgena
      if s.flags.usbPresent then t.emit (.notify .chargerActive) else t
    else
      let t := (s.setChgEnabled false).clearBitsAt s.cfg.aChgctl.toNat s.cfg.chgena
      if s.flags.usbPresent || !s.cfg.chgIdleNotifyNeedsUsb then t.emit (.notify .chargerIdle) else t
  else s

/-- `AUTORESUME_HANDSHAKE` (41_charger_fsm.md R175): clear, set the resume bit, set the auto-resume bit. -/
def autoresumeHandshake (s : State) : State :=
  let a := s.cfg.aChgctl.toNat
  ((s.clearBitsAt a s.cfg.autores).setBitsAt a s.cfg.resumeBit).setBitsAt a s.cfg.autores

/-- `SET_CURRENT_LIMIT(ma)` (41_charger_fsm.md R172). -/
def setCurrentLimit (ma : Nat) (s : State) : State :=
  let tier := quantize ma
  autoresumeHandshake
    (chargeEnable tier.capable (s.setMaskedAt s.cfg.aUsblim.toNat s.cfg.usblimMask (tier.code s.cfg)))

/-- `APPLY_POLICY(type)` (41_charger_fsm.md R171). -/
def applyPolicy (type : ChargerType) (s : State) : State :=
  let t :=
    match type with
    | .none => setCurrentLimit 0 s
    | .hostLimited => setCurrentLimit (if s.lastCurlim > s.cfg.curlimFloor then s.lastCurlim else s.cfg.curlimFloor) s
    | .oneAmp => setCurrentLimit s.cfg.curlimMax (s.clearBitsAt s.cfg.aGpo.toNat s.cfg.gpoContendMask)
  t.setReg s.cfg.aFastchg.toNat s.cfg.fastchgMax

/-- `CLASSIFY_DONE(snapshot, result)` (41_charger_fsm.md R177), for a result inside 0..1023. -/
def classifyDone (snapshot result : Nat) (s : State) : State :=
  if s.usbRemovalCount = snapshot then applyPolicy (classifySample s.cfg result s.flags.usbPresent) s else s

/-- `BATFULL_DANCE` (41_charger_fsm.md R180): read the tier field, write the suspend code, write the old code back. -/
def batfullDance (s : State) : State :=
  let a := s.cfg.aUsblim.toNat
  let old := s.reg a &&& s.cfg.usblimMask
  (s.setMaskedAt a s.cfg.usblimMask s.cfg.tierCode.suspend).setMaskedAt a s.cfg.usblimMask old

/-- The notifier's run once it is enabled (41_charger_fsm.md R179). -/
def curlimRun (s : State) : State :=
  let t := { s with curlim := { s.curlim with scheduled := false } }
  if s.suspend ≠ .running then t
  else if s.usbRemovalCount ≠ s.curlim.snapshot then t
  else setCurrentLimit s.curlim.pendingMa { t with lastCurlim := s.curlim.pendingMa }

/-! ### Meanings -/

/-- CLASSIFY (41_charger_fsm.md R170): pure, the type is handed back; outside 0..1023 refused (U7). -/
def execClassify (sample : Int) (usbPresent : Bool) (s : State) : Result :=
  powered s
    (if SampleInRange sample then .next (s.ret none (.charger (classifySample s.cfg sample.toNat usbPresent)))
     else .refused .sampleOutsideDomain)

/-- APPLY_POLICY (41_charger_fsm.md R171). -/
def execApplyPolicy (type : ChargerType) (s : State) : Result := internalOp s (.next (applyPolicy type s))

/-- SET_CURRENT_LIMIT (41_charger_fsm.md R172). -/
def execSetCurrentLimit (ma : Nat) (s : State) : Result := internalOp s (.next (setCurrentLimit ma s))

/-- CHARGE_ENABLE (41_charger_fsm.md R174). -/
def execChargeEnable (on : Bool) (s : State) : Result := internalOp s (.next (chargeEnable on s))

/-- AUTORESUME_HANDSHAKE (41_charger_fsm.md R175). -/
def execAutoresumeHandshake (s : State) : Result := internalOp s (.next (autoresumeHandshake s))

/-- CLASSIFY_DONE (41_charger_fsm.md R177): a stale snapshot aborts before the sample is looked at. -/
def execClassifyDone (snapshot : Nat) (result : Int) (s : State) : Result :=
  internalOp s
    (if s.usbRemovalCount = snapshot ∧ ¬SampleInRange result then .refused .sampleOutsideDomain
     else .next (classifyDone snapshot result.toNat s))

/-- BATFULL_DANCE (41_charger_fsm.md R180). -/
def execBatfullDance (s : State) : Result := internalOp s (.next (batfullDance s))

/-- NOTIFY_USB_CURLIM (41_charger_fsm.md R178). -/
def execNotifyUsbCurlim (ma : BitVec 16) (s : State) : Result :=
  hostCommand s none fun s =>
    State.ret
      { s with curlim := { s.curlim with pendingMa := ma.toNat, snapshot := s.usbRemovalCount, scheduled := true } }
      none (.value 0)

/-- CURLIM_TASK (41_charger_fsm.md R179): enabled when scheduled and idle, and, as every task, only after PROBE
(43_suspend_and_tasks.md R274). -/
def execCurlimTask (s : State) : Result :=
  powered s (.next (guarded (fun s => s.probed && s.curlim.scheduled && s.curlim.task == .idle) curlimRun s))

end Sys2Proof.Machine
end

