-- ==== Sys2Proof/Machine/Adc.lean ====
section
/-! DEFINITION. The ADC request scheduler (40_adc_scheduler.md R140 to R150) and the classification read
(41_charger_fsm.md R176). -/

namespace Sys2Proof.Machine

/-- `ADC_START(r)` (40_adc_scheduler.md R141). -/
def adcStart (r : AdcRequest) (s : State) : State :=
  { s.setReg s.cfg.aAdcctl.toNat (adcctlByte s.cfg r.chan r.avg) with adcHw := .converting r.chan r.avg }

/-- Storing a request in the slot at `head` and moving `head` (40_adc_scheduler.md R140). -/
def pushSlot (r : AdcRequest) (s : State) : State :=
  { s with slots := s.slots.set s.head (some r), head := s.bump s.head }

/-- The accepting half of `ADC_ENQUEUE` (40_adc_scheduler.md R140): into an empty FIFO it starts the request just pushed. -/
def enqueueAccepted (r : AdcRequest) (s : State) : State :=
  if s.fifoEmpty then adcStart r (pushSlot r s) else pushSlot r s

/-- `ADC_ENQUEUE` (40_adc_scheduler.md R140), with what follows in its caller: `ok` after a success, `full` after
`E_QUEUE_FULL`, whose defect is already reported. -/
def adcEnqueue (r : AdcRequest) (ok full : State → State) (s : State) : State :=
  if s.fifoFull then full (s.emit (.defect .adcQueueFull)) else ok (enqueueAccepted r s)

/-- `CLASSIFY_TRIGGER` (41_charger_fsm.md R176). -/
def classifyTrigger (s : State) : State :=
  adcEnqueue ⟨s.cfg.classifyChan, s.cfg.classifyAvg, .classify, s.usbRemovalCount⟩
    (fun s => s) (fun s => s.emit (.warn .classifyDropped)) s

/-- Handing the result to the first caller of that id that waits for a conversion and has none yet. -/
def deliverTo (w : Byte) (result : BitVec 10) : List Waiter → List Waiter
  | [] => []
  | x :: l =>
    if x.caller = w ∧ x.result = none ∧ (x.waitFor = .adcRead ∨ x.waitFor = .battery) then
      { x with result := some result } :: l
    else x :: deliverTo w result l

/-- The delivery step of `ADC_COMPLETE` (40_adc_scheduler.md R142). -/
def deliver (r : AdcRequest) (result : BitVec 10) (s : State) : State :=
  let t := s.emit (.adcDone r.target r.param result.toNat)
  match r.target with
  | .sync w => { t with waiters := deliverTo w result t.waiters }
  | .callback _ => t
  | .classify => classifyDone r.param result.toNat t

/-- Clearing the slot at `tail` and moving `tail` (40_adc_scheduler.md R142). -/
def popSlot (s : State) : State := { s with slots := s.slots.set s.tail none, tail := s.bump s.tail }

/-- The result the converter's registers hold (30_encoding.md R106). -/
def State.conversionResult (s : State) : BitVec 10 :=
  assembleResult s.cfg (s.reg s.cfg.aAdcresHi.toNat) (s.reg s.cfg.aAdcresLo.toNat)

/-- The last step of `ADC_COMPLETE`: the next conversion, if a request is pending. `none` where the slots contradict the
indices (U14). -/
def startNext (s : State) : Option State :=
  if s.fifoEmpty then some s else (s.slot s.tail).map fun r => adcStart r s

/-- `ADC_COMPLETE` (40_adc_scheduler.md R142): pop, read, deliver, start next. `none` where the slots contradict the
indices (U14). -/
def adcComplete (s : State) : Option State :=
  if s.fifoEmpty then some (s.emit (.defect .adcReadyEmptyFifo))
  else (s.slot s.tail).bind fun r => startNext (deliver r s.conversionResult (popSlot s))

/-- The outcome of a completion. -/
def completed : Option State → Result
  | some t => .next t
  | none => .refused .brokenFifo

/-- Blocking the caller until its conversion completes (40_adc_scheduler.md R144). -/
def block (w : Byte) (f : WaitFor) (s : State) : State := { s with waiters := s.waiters ++ [⟨w, f, none⟩] }

/-! ### Meanings -/

/-- ADC_ENQUEUE (40_adc_scheduler.md R140). -/
def execAdcEnqueue (chan : BitVec 4) (avg : BitVec 2) (target : Target) (param : Nat) (s : State) : Result :=
  internalOp s (.next (adcEnqueue ⟨chan, avg, target, param⟩ (fun s => s.ret none (.value 0))
    (fun s => s.raise none .queueFull) s))

/-- ADC_START (40_adc_scheduler.md R141). -/
def execAdcStart (r : AdcRequest) (s : State) : Result := internalOp s (.next (adcStart r s))

/-- ADC_COMPLETE (40_adc_scheduler.md R142). -/
def execAdcComplete (s : State) : Result := internalOp s (completed (adcComplete s))

/-- CLASSIFY_TRIGGER (41_charger_fsm.md R176). -/
def execClassifyTrigger (s : State) : Result := internalOp s (.next (classifyTrigger s))

/-- ADC_ASYNC_READ (40_adc_scheduler.md R143). -/
def execAdcAsyncRead (chan : BitVec 4) (avg : BitVec 2) (f : Byte) (param : BitVec 32) (s : State) : Result :=
  hostCommand s none (throughGate none
    (adcEnqueue ⟨chan, avg, .callback f, param.toNat⟩ (fun s => s.ret none (.value 0))
      (fun s => s.raise none .queueFull)))

/-- ADC_SYNC_READ, the call (40_adc_scheduler.md R144); the wake-up is `wakeCaller`. -/
def execAdcSyncRead (chan : BitVec 4) (avg : BitVec 2) (w : Byte) (s : State) : Result :=
  hostCommand s (some w) (throughGate (some w)
    (adcEnqueue ⟨chan, avg, .sync w, 0⟩ (block w .adcRead) (fun s => s.raise (some w) .queueFull)))

/-- BATTERY_VOLTAGE, the call (40_adc_scheduler.md R145); the wake-up, with the scale, is `wakeCaller`. -/
def execBatteryVoltage (w : Byte) (s : State) : Result :=
  hostCommand s (some w) (throughGate (some w)
    (adcEnqueue ⟨s.cfg.battChan, s.cfg.battAvg, .sync w, 0⟩ (block w .battery)
      (fun s => s.raise (some w) .queueFull)))

end Sys2Proof.Machine
end

