-- ==== Sys2Proof/Machine/Poller.lean ====
section
/-! DEFINITION. The no-battery poller (43_suspend_and_tasks.md R263, R264). -/

namespace Sys2Proof.Machine

/-- `NOBAT_START` (43_suspend_and_tasks.md R263). -/
def nobatStart (s : State) : State :=
  if s.nobat.running then s else { s with nobat := ⟨true, s.usbRemovalCount⟩ }

/-- One poll cycle of a running poller (43_suspend_and_tasks.md R264). -/
def nobatCycle (s : State) : State :=
  if s.suspend ≠ .running then s
  else if s.batteryPresent then
    let t := classifyTrigger { s with lastBatInsert := some s.now }
    { t with nobat := { t.nobat with running := false } }
  else if s.usbRemovalCount ≠ s.nobat.snapshot then { s with nobat := { s.nobat with running := false } }
  else s

/-- NOBAT_START (43_suspend_and_tasks.md R263). -/
def execNobatStart (s : State) : Result := internalOp s (.next (nobatStart s))

/-- NOBAT_POLL (43_suspend_and_tasks.md R264): enabled while the poller runs, and, as every task, only after PROBE
(R274). -/
def execNobatPoll (s : State) : Result :=
  powered s (.next (guarded (fun s => s.probed && s.nobat.running) nobatCycle s))

end Sys2Proof.Machine
end

