-- ==== Sys2Proof/Machine/Power.lean ====
section
/-! DEFINITION. PROBE, readiness, standby and the suspend/resume coordinator (43_suspend_and_tasks.md R260 to R267, R274),
and the wake-ups of blocked callers (40_adc_scheduler.md R144, R145, 43_suspend_and_tasks.md R266). -/

namespace Sys2Proof.Machine

/-- `s <- the state of 10_state.md rule R61` (43_suspend_and_tasks.md R274): configuration, registers and the model's own
fields stay. -/
def probed (s : State) : State :=
  { State.afterProbe s.cfg s.regs with
    outputs := s.outputs, returns := s.returns, now := s.now, draws := s.draws, port := s.port,
    invoked := s.invoked }

/-- The standby command (43_suspend_and_tasks.md R267). -/
def standby (s : State) : State :=
  { s.setBitsAt s.cfg.aStandby.toNat s.cfg.standbyCmd with standbyIssued := true }

/-- `~RESUMERS[i]` for the five mask registers (30_encoding.md R109). -/
def suspendMasks (cfg : Config) : Bytes5 :=
  ⟨~~~cfg.resumers.b0, ~~~cfg.resumers.b1, ~~~cfg.resumers.b2, ~~~cfg.resumers.b3, ~~~cfg.resumers.b4⟩

/-- `S2` of SUSPEND (43_suspend_and_tasks.md R260). -/
def suspendFinish (s : State) : State :=
  let t := ({ s with savedMask := s.readGroup (s.intmAt 0) }.writeGroup (s.intmAt 0) (suspendMasks s.cfg)).settleLine
  { t with irqDelivery := false, suspend := .completedSuspend }.ret none (.value 0)

/-- `R2` of RESUME (43_suspend_and_tasks.md R261). -/
def resumeFinish (s : State) : State :=
  let t := (s.writeGroup (s.intmAt 0) s.savedMask).settleLine.maskTick
  ({ t with irqDelivery := true, suspend := .completedResume }.requestDispatch).ret none (.value 0)

/-- The coordinator's second transition: `S2` in `starting_suspend`, `R2` in `starting_resume`, in another state none. -/
def coordinatorFinish (s : State) : State :=
  match s.suspend with
  | .startingSuspend => suspendFinish s
  | .startingResume => resumeFinish s
  | .running => s
  | .completedSuspend => s
  | .completedResume => s

/-- What a blocked caller gets if its wake-up is enabled (40_adc_scheduler.md R144, R145, 43_suspend_and_tasks.md R266). -/
def wakeValue (s : State) (x : Waiter) : Option ReturnValue :=
  match x.waitFor, x.result with
  | .adcRead, some r => some (.value r.toNat)
  | .battery, some r => some (.value (millivolts s.cfg r.toNat))
  | .adcRead, none => none
  | .battery, none => none
  | .ready deadline, _ =>
    if s.isReady then some (.value 0) else if deadline ≤ s.now then some (.error .timeout) else none

/-- The first waiter of that id whose wake-up is enabled: the value it gets and the others. -/
def takeWaiter (s : State) (w : Byte) : List Waiter → Option (ReturnValue × List Waiter)
  | [] => none
  | x :: l =>
    match (if x.caller = w then wakeValue s x else none) with
    | some v => some (v, l)
    | none => (takeWaiter s w l).map fun p => (p.1, x :: p.2)

/-- The wake-up of a blocked caller; where none is enabled nothing happens (log 7). -/
def wakeCaller (w : Byte) (s : State) : State :=
  match takeWaiter s w s.waiters with
  | some (v, l) => { s with waiters := l }.ret (some w) v
  | none => s

/-! ### Meanings -/

/-- PROBE (43_suspend_and_tasks.md R274). -/
def execProbe (s : State) : Result :=
  powered s (.next (if s.probed then s.raise none .busy else (probed s).ret none (.value 0)))

/-- READY (43_suspend_and_tasks.md R265): never an error, also before PROBE. -/
def execReady (s : State) : Result := powered s (.next (s.ret none (.bool s.isReady)))

/-- WAIT_UNTIL_READY, the call (43_suspend_and_tasks.md R266); the wake-up is `wakeCaller`. -/
def execWaitUntilReady (timeout : BitVec 16) (w : Byte) (s : State) : Result :=
  powered s (.next
    (if s.isReady then s.ret (some w) (.value 0)
     else { s with waiters := s.waiters ++ [⟨w, .ready (s.now + timeout.toNat), none⟩] }))

/-- GO_STANDBY (43_suspend_and_tasks.md R267). -/
def execGoStandby (s : State) : Result :=
  hostCommand s none (throughGate none fun s => (standby s).ret none (.value 0))

/-- SUSPEND, `S1` (43_suspend_and_tasks.md R260); `S2` is `suspendFinish`. -/
def execSuspend (s : State) : Result :=
  hostCommand s none fun s =>
    if s.suspend ≠ .running ∨ s.disp ≠ .idle then s.raise none .busy else { s with suspend := .startingSuspend }

/-- RESUME, `R1` (43_suspend_and_tasks.md R261); `R2` is `resumeFinish`. -/
def execResume (s : State) : Result :=
  hostCommand s none fun s =>
    if s.suspend ≠ .completedSuspend then s.raise none .busy else { s with suspend := .startingResume }

end Sys2Proof.Machine
end

