-- ==== Sys2Proof/Machine/Events.lean ====
section
/-! DEFINITION. The events (42_interrupt_dispatcher.md R210 to R231): the rule of each, and its meaning as one micro-step
of a pass (R206). -/

namespace Sys2Proof.Machine

/-- The micro-step that comes first of a list of events: the first one present in the block, else EXIT
(42_interrupt_dispatcher.md R206). -/
def microStepOf : Option Event → MicroStep
  | some e => .event e
  | none => .exit

/-- The micro-step after the events of `l` that are absent. -/
def nextMicroStep (cfg : Config) (block : Block) (l : List Event) : MicroStep := microStepOf (cfg.firstPresent block l)

/-- Setting the next micro-step of the pass in progress. -/
def State.setNext (s : State) (m : Pass → MicroStep) : State :=
  { s with pass := s.pass.map fun p => { p with next := m p } }

/-- The pass goes on after event `e`. -/
def advance (e : Event) (s : State) : State := s.setNext fun p => nextMicroStep s.cfg p.block e.after

/-- An event as one micro-step: its rule, then the pass goes on. -/
def eventStep (e : Event) (rule : State → State) (s : State) : Result := internalOp s (.next (advance e (rule s)))

/-- `Present(e)` in the block of the pass in progress. -/
def State.passHas (s : State) (e : Event) : Bool :=
  match s.pass with
  | some p => s.cfg.present p.block e
  | none => false

/-- EV_CHG_INS (42_interrupt_dispatcher.md R210). -/
def ruleChgIns (s : State) : State :=
  (((s.setChgPresent true).emit (.notify .chargerInsert)).emit (.inputPower true)).emit (.platform .statusChanged)

/-- EV_CHG_REM (42_interrupt_dispatcher.md R211). -/
def ruleChgRem (s : State) : State :=
  (((s.setChgPresent false).emit (.notify .chargerRemove)).emit (.inputPower false)).emit (.platform .statusChanged)

/-- EV_USB_INS, part (a) (42_interrupt_dispatcher.md R212). -/
def ruleUsbInsA (s : State) : State :=
  ((s.setUsbPresent true).emit (.notify .usbInsert)).emit (.platform .statusChanged)

/-- EV_USB_REM (42_interrupt_dispatcher.md R213): nothing where EV_USB_INS is present in the same block. -/
def ruleUsbRem (s : State) : State :=
  if s.passHas .usbIns then s
  else
    classifyTrigger
      ((({ s with usbRemovalCount := s.cfg.countAfter s.usbRemovalCount, lastCurlim := 0 }.setUsbPresent false).emit
        (.notify .usbRemove)).emit (.platform .statusChanged))

/-- The forward to the RTC collaborator if that feature is enabled (42_interrupt_dispatcher.md R214). -/
def forwardRtc (k : RtcKind) (s : State) : State := if s.cfg.featRtc then s.emit (.rtc k) else s

/-- The held-seconds count of EV_TICK (42_interrupt_dispatcher.md R215). -/
def countHeld (s : State) : State :=
  if 0 ≤ s.onkeySeconds ∧ s.onkeyPressed then
    let t := { s with onkeySeconds := s.onkeySeconds + 1 }
    let u := if t.onkeySeconds = t.cfg.onkeySigInit then t.emit .shutdownRequest else t
    if u.onkeySeconds = u.cfg.onkeyShutdown then standby u else u
  else s

/-- EV_TICK (42_interrupt_dispatcher.md R215). -/
def ruleTick (s : State) : State := countHeld (forwardRtc .secondTick s)

/-- EV_ONKEY_F (42_interrupt_dispatcher.md R216). -/
def ruleOnkeyF (s : State) : State :=
  let t := { s with onkeyPressed := true }
  if s.suppressOnkey then t else t.emit (.inputKey true)

/-- EV_ONKEY_R (42_interrupt_dispatcher.md R217). -/
def ruleOnkeyR (s : State) : State :=
  let t := { s with onkeyPressed := false, onkeySeconds := -1 }
  let u := if s.suppressOnkey then { t with suppressOnkey := false } else t.emit (.inputKey false)
  if s.rtcWantsTick then u else u.maskTick

/-- EV_ONKEY_1S (42_interrupt_dispatcher.md R218). -/
def ruleOnkey1s (s : State) : State := { s with onkeySeconds := 0 }.unmaskTick

/-- The battery was inserted less than `BATFULL_GRACE` ago (42_interrupt_dispatcher.md R219). -/
def State.inGrace (s : State) : Bool :=
  match s.lastBatInsert with
  | some t => decide ((s.now : Int) - t < s.cfg.batfullGrace)
  | none => false

/-- EV_BATFULL (42_interrupt_dispatcher.md R219). -/
def ruleBatfull (s : State) : State := if s.inGrace then batfullDance s else s.emit (.notify .chargerIdle)

/-- EV_CHGHALT, EV_USBLIM_ON, EV_USBLIM_OFF (42_interrupt_dispatcher.md R220, R223, R224). -/
def chargerChanged (s : State) : State := s.emit (.notify .chargerChange)

/-- EV_LOWPWR, for EV_LOWBAT and EV_LOWSYS (42_interrupt_dispatcher.md R226). -/
def ruleLowpwr (s : State) : State :=
  if s.usbOk || s.chgOk then nobatStart (autoresumeHandshake (s.emit (.notify .chargerIdle)))
  else s.emit (.platform (if s.draws.reachable then .lowBattery else .criticalSuspend))

/-- The part (b) of EV_USB_INS: the classification read, then the pass goes on (42_interrupt_dispatcher.md R212). -/
def usbInsB (s : State) : State := advance .usbIns (classifyTrigger s)

/-- The part (a) of EV_USB_INS: the part (b) is the pass's next micro-step (42_interrupt_dispatcher.md R212). -/
def usbInsA (s : State) : State := (ruleUsbInsA s).setNext fun _ => .usbInsB

/-- The pass waits for the part (b) of EV_USB_INS. -/
def State.atUsbInsB (s : State) : Bool :=
  match s.pass with
  | some p => p.next == .usbInsB
  | none => false

/-! ### Meanings -/

/-- EV_CHG_INS (42_interrupt_dispatcher.md R210). -/
def execEvChgIns (s : State) : Result := eventStep .chgIns ruleChgIns s

/-- EV_CHG_REM (42_interrupt_dispatcher.md R211). -/
def execEvChgRem (s : State) : Result := eventStep .chgRem ruleChgRem s

/-- EV_USB_INS (42_interrupt_dispatcher.md R212): two micro-steps. -/
def execEvUsbIns (s : State) : Result := internalOp s (.next (if s.atUsbInsB then usbInsB s else usbInsA s))

/-- EV_USB_REM (42_interrupt_dispatcher.md R213). -/
def execEvUsbRem (s : State) : Result := eventStep .usbRem ruleUsbRem s

/-- EV_ALARM (42_interrupt_dispatcher.md R214). -/
def execEvAlarm (s : State) : Result := eventStep .alarm (forwardRtc .alarm) s

/-- EV_TICK (42_interrupt_dispatcher.md R215). -/
def execEvTick (s : State) : Result := eventStep .tick ruleTick s

/-- EV_ONKEY_F (42_interrupt_dispatcher.md R216). -/
def execEvOnkeyF (s : State) : Result := eventStep .onkeyF ruleOnkeyF s

/-- EV_ONKEY_R (42_interrupt_dispatcher.md R217). -/
def execEvOnkeyR (s : State) : Result := eventStep .onkeyR ruleOnkeyR s

/-- EV_ONKEY_1S (42_interrupt_dispatcher.md R218). -/
def execEvOnkey1s (s : State) : Result := eventStep .onkey1s ruleOnkey1s s

/-- EV_BATFULL (42_interrupt_dispatcher.md R219). -/
def execEvBatfull (s : State) : Result := eventStep .batfull ruleBatfull s

/-- EV_CHGHALT (42_interrupt_dispatcher.md R220). -/
def execEvChghalt (s : State) : Result := eventStep .chghalt chargerChanged s

/-- EV_THLIM_ON (42_interrupt_dispatcher.md R221). -/
def execEvThlimOn (s : State) : Result := eventStep .thlimOn (fun s => chargerChanged (s.setChgProt true)) s

/-- EV_THLIM_OFF (42_interrupt_dispatcher.md R222). -/
def execEvThlimOff (s : State) : Result := eventStep .thlimOff (fun s => chargerChanged (s.setChgProt false)) s

/-- EV_USBLIM_ON (42_interrupt_dispatcher.md R223). -/
def execEvUsblimOn (s : State) : Result := eventStep .usblimOn chargerChanged s

/-- EV_USBLIM_OFF (42_interrupt_dispatcher.md R224). -/
def execEvUsblimOff (s : State) : Result := eventStep .usblimOff chargerChanged s

/-- EV_ADC_RDY (42_interrupt_dispatcher.md R225). -/
def execEvAdcRdy (s : State) : Result := internalOp s (completed ((adcComplete s).map (advance .adcRdy)))

/-- EV_LOWBAT (42_interrupt_dispatcher.md R226). -/
def execEvLowbat (s : State) : Result := eventStep .lowbat ruleLowpwr s

/-- EV_LOWSYS (42_interrupt_dispatcher.md R226). -/
def execEvLowsys (s : State) : Result := eventStep .lowsys ruleLowpwr s

/-- EV_HIGHTEMP (42_interrupt_dispatcher.md R227). -/
def execEvHightemp (s : State) : Result := eventStep .hightemp (fun s => s.emit (.platform .criticalSuspend)) s

/-- EV_AUTOPWRFAIL (42_interrupt_dispatcher.md R228). -/
def execEvAutopwrfail (s : State) : Result := eventStep .autopwrfail (fun s => s.emit (.warn .autoPowerFail)) s

/-- A sub-regulator failure (42_interrupt_dispatcher.md R229). -/
def subregStep (k : Fin 10) (s : State) : Result :=
  eventStep (.subregFail k) (fun s => s.emit (.warn (.subregFail k))) s

/-- EV_SUBREG_FAIL0 (42_interrupt_dispatcher.md R229). -/
def execEvSubregFail0 (s : State) : Result := subregStep 0 s

/-- EV_SUBREG_FAIL1 (42_interrupt_dispatcher.md R229). -/
def execEvSubregFail1 (s : State) : Result := subregStep 1 s

/-- EV_SUBREG_FAIL2 (42_interrupt_dispatcher.md R229). -/
def execEvSubregFail2 (s : State) : Result := subregStep 2 s

/-- EV_SUBREG_FAIL3 (42_interrupt_dispatcher.md R229). -/
def execEvSubregFail3 (s : State) : Result := subregStep 3 s

/-- EV_SUBREG_FAIL4 (42_interrupt_dispatcher.md R229). -/
def execEvSubregFail4 (s : State) : Result := subregStep 4 s

/-- EV_SUBREG_FAIL5 (42_interrupt_dispatcher.md R229). -/
def execEvSubregFail5 (s : State) : Result := subregStep 5 s

/-- EV_SUBREG_FAIL6 (42_interrupt_dispatcher.md R229). -/
def execEvSubregFail6 (s : State) : Result := subregStep 6 s

/-- EV_SUBREG_FAIL7 (42_interrupt_dispatcher.md R229). -/
def execEvSubregFail7 (s : State) : Result := subregStep 7 s

/-- EV_SUBREG_FAIL8 (42_interrupt_dispatcher.md R229). -/
def execEvSubregFail8 (s : State) : Result := subregStep 8 s

/-- EV_SUBREG_FAIL9 (42_interrupt_dispatcher.md R229). -/
def execEvSubregFail9 (s : State) : Result := subregStep 9 s

/-- EV_LED_FAIL (42_interrupt_dispatcher.md R230). -/
def execEvLedFail (s : State) : Result := eventStep .ledFail (fun s => s.emit (.warn .ledFail)) s

/-- EV_LED_OVP (42_interrupt_dispatcher.md R231). -/
def execEvLedOvp (s : State) : Result := eventStep .ledOvp (fun s => s.emit (.warn .ledOvp)) s

/-- The meaning of an event. -/
def execEvent : Event → State → Result
  | .chgIns => execEvChgIns | .chgRem => execEvChgRem | .usbIns => execEvUsbIns | .usbRem => execEvUsbRem
  | .alarm => execEvAlarm | .tick => execEvTick | .onkeyF => execEvOnkeyF | .onkeyR => execEvOnkeyR
  | .onkey1s => execEvOnkey1s | .batfull => execEvBatfull | .chghalt => execEvChghalt | .thlimOn => execEvThlimOn
  | .thlimOff => execEvThlimOff | .usblimOn => execEvUsblimOn | .usblimOff => execEvUsblimOff
  | .adcRdy => execEvAdcRdy | .lowbat => execEvLowbat | .lowsys => execEvLowsys | .hightemp => execEvHightemp
  | .autopwrfail => execEvAutopwrfail
  | .subregFail 0 => execEvSubregFail0 | .subregFail 1 => execEvSubregFail1 | .subregFail 2 => execEvSubregFail2
  | .subregFail 3 => execEvSubregFail3 | .subregFail 4 => execEvSubregFail4 | .subregFail 5 => execEvSubregFail5
  | .subregFail 6 => execEvSubregFail6 | .subregFail 7 => execEvSubregFail7 | .subregFail 8 => execEvSubregFail8
  | .subregFail 9 => execEvSubregFail9
  | .ledFail => execEvLedFail | .ledOvp => execEvLedOvp

end Sys2Proof.Machine
end

