-- ==== Sys2Proof/Machine/Dispatcher.lean ====
section
/-! DEFINITION. The Dispatcher pass (42_interrupt_dispatcher.md R200 to R208): one micro-step per DISPATCH. -/

namespace Sys2Proof.Machine

/-- The pass cannot start now: suspending or suspended (R201), or the resume is not complete (R202). -/
def State.entryBails (s : State) : Bool := !s.accessAllowed

/-- `ENTRY`, steps 1 and 2 (42_interrupt_dispatcher.md R201, R202), for `disp = idle`: without a credit, before PROBE, or
while the entry bails, nothing changes and the credit stays. -/
def passEntry (s : State) : State :=
  if s.probed && s.dispatchReq then
    if s.entryBails then s
    else { s with dispatchReq := false, disp := .running, pass := some ⟨0, .read, false⟩ }
  else s

/-- The status read returned fewer than five bytes (42_interrupt_dispatcher.md R203, 20_memory.md R74): the pass ends, the
credit is set again. What the read cleared is the parameter SHORT_READ_CLEARS. -/
def shortRead (k : Nat) (s : State) : State :=
  let t := if s.cfg.shortReadClears then s.clearCovered (s.intAt 0) k else s
  { t with dispatchReq := true, disp := .idle, pass := none }

/-- The pass now holds the block and goes on with STEP4. -/
def State.holdBlock (s : State) (block : Block) : State :=
  { s with pass := s.pass.map fun p => { p with block := block, next := .step4 } }

/-- The status read returned five bytes (42_interrupt_dispatcher.md R203): the registers are cleared in the same action. -/
def fullRead (s : State) : State :=
  let t := s.writeGroup (s.intAt 0) ⟨0, 0, 0, 0, 0⟩
  State.holdBlock { t with irqSeen := false } (s.readGroup (s.intAt 0)).block

/-- `READ`, step 3 (42_interrupt_dispatcher.md R203): the environment chooses the outcome. -/
def passRead (s : State) : State :=
  match s.draws.shortRead with
  | some k => shortRead k.val s
  | none => fullRead s

/-- `STEP4` (42_interrupt_dispatcher.md R204), for the block of the pass. -/
def passStep4 (block : Block) (s : State) : State :=
  let t :=
    if s.suspend = .completedResume then
      { s with
        resumeSnapshot := Block.bytes block
        suspend := .running
        suppressOnkey := s.suppressOnkey || wakeByKeyOnly s.cfg block }
    else s
  t.setNext fun _ => .step5

/-- A source that was already present at the cold-plug: USB (42_interrupt_dispatcher.md R205). -/
def coldplugUsb (usb : Bool) (s : State) : State :=
  if usb then (s.setUsbPresent true).emit (.notify .usbInsert) else s

/-- A source that was already present at the cold-plug: the charger (42_interrupt_dispatcher.md R205). -/
def coldplugChg (chg : Bool) (s : State) : State :=
  if chg then ((s.setChgPresent true).emit (.notify .chargerInsert)).emit (.inputPower true) else s

/-- The change of the platform's status at the cold-plug (42_interrupt_dispatcher.md R205). -/
def coldplugStatus (any : Bool) (s : State) : State := if any then s.emit (.platform .statusChanged) else s

/-- The cold-plug (42_interrupt_dispatcher.md R205). -/
def coldplug (s : State) : State :=
  let t := s.maskTick
  let usb := t.usbOk
  let chg := t.chgOk
  let u := classifyTrigger (coldplugStatus (usb || chg) (coldplugChg chg (coldplugUsb usb t)))
  { u with coldplugDone := true, pass := u.pass.map fun p => { p with coldPlug := true } }

/-- `STEP5` (42_interrupt_dispatcher.md R205). -/
def passStep5 (s : State) : State :=
  let t := if s.coldplugDone then s else coldplug s
  t.setNext fun p => nextMicroStep s.cfg p.block Event.order

/-- `EXIT`, step 7 (42_interrupt_dispatcher.md R207). -/
def passExit (s : State) : State :=
  let t := s.emit .inputFlush
  { t with dispatchReq := s.dispatchReq || s.disp == .runningResched, disp := .idle, pass := none }

/-- The next micro-step of the pass in progress. -/
def passStep (p : Pass) (s : State) : Result :=
  match p.next with
  | .read => .next (passRead s)
  | .step4 => .next (passStep4 p.block s)
  | .step5 => .next (passStep5 s)
  | .event e => execEvent e s
  | .usbInsB => execEvUsbIns s
  | .exit => .next (passExit s)

/-- DISPATCH (42_interrupt_dispatcher.md R200): ENTRY where no pass is in progress, else the pass's next micro-step. A
pass without a position, or with the access gate closed, is a forced state (U14). -/
def execDispatch (s : State) : Result :=
  powered s
    (match s.disp, s.pass with
     | .idle, _ => .next (passEntry s)
     | _, some p => if s.accessAllowed then passStep p s else .refused .forcedState
     | _, none => .refused .forcedState)

end Sys2Proof.Machine
end

