-- ==== Sys2Proof/Machine/Environment.lean ====
section
/-! DEFINITION. The environment inputs (40_adc_scheduler.md R146, 42_interrupt_dispatcher.md R233 to R236). -/

namespace Sys2Proof.Machine

/-- Latching bit `b` of `INT[i]`. -/
def State.latch (s : State) (i b : Nat) : State := s.setBitsAt (s.intAt i) (1#8 <<< b)

/-- Latching the source of an event. -/
def State.latchEvent (s : State) (e : Event) : State := s.latch (s.cfg.pos e).byte.val (s.cfg.pos e).bit.val

/-- The low result register after a conversion: the drawn bits outside LO_MASK, and bits 1:0 of the value
(40_adc_scheduler.md R146). -/
def resultLow (cfg : Config) (junk : Byte) (value : BitVec 10) : Byte :=
  (junk &&& ~~~cfg.loMask) ||| (value.extractLsb' 0 2).setWidth 8

/-- The PMU finishes a conversion (40_adc_scheduler.md R146). -/
def conversionDone (value : BitVec 10) (s : State) : State :=
  let t := s.setReg s.cfg.aAdcresHi.toNat (value.extractLsb' 2 8)
  let u := t.setReg s.cfg.aAdcresLo.toNat (resultLow s.cfg (s.draws.junk.headD 0) value)
  { u.latchEvent .adcRdy with adcHw := .idle }

/-- A conversion is running. -/
def State.converting (s : State) : Bool :=
  match s.adcHw with
  | .converting _ _ => true
  | .idle => false

/-- The guard of IRQ_EDGE (42_interrupt_dispatcher.md R235). -/
def State.edgeEnabled (s : State) : Bool := s.irqDelivery && s.irqLine && !s.irqSeen && s.probed

/-- PMU_RAISE (42_interrupt_dispatcher.md R234). -/
def execPmuRaise (i : Fin 5) (b : Fin 8) (s : State) : Result := powered s (.next (s.latch i.val b.val))

/-- ADC_HW_DONE (40_adc_scheduler.md R146). -/
def execAdcHwDone (value : BitVec 10) (s : State) : Result :=
  powered s (.next (guarded State.converting (conversionDone value) s))

/-- IRQ_EDGE (42_interrupt_dispatcher.md R235). -/
def execIrqEdge (s : State) : Result :=
  powered s (.next (guarded State.edgeEnabled (fun s => { s with irqSeen := true }.requestDispatch) s))

/-- ENV_SET_STATUS (42_interrupt_dispatcher.md R233). -/
def execEnvSetStatus (reg : StatusReg) (v : Byte) (s : State) : Result :=
  powered s (.next (s.setReg (s.statusRegAt reg) v))

/-- ENV_RTC_WANT (42_interrupt_dispatcher.md R236). -/
def execEnvRtcWant (b : Bool) (s : State) : Result := powered s (.next { s with rtcWantsTick := b })

end Sys2Proof.Machine
end

