-- ==== Sys2Proof/Machine/Registers.lean ====
section
/-! DEFINITION. The serialized register primitives of a host (43_suspend_and_tasks.md R268 to R271): the checks in the
order of 60_exceptions.md R308, then one transport call, which the environment may answer with BusError. -/

namespace Sys2Proof.Machine

/-- `count = 0` or the block leaves the register space (43_suspend_and_tasks.md R268). -/
def outOfRange (reg count : Byte) : Bool := count == 0 || 255 < reg.toNat + count.toNat - 1

/-- The range check of a block command. -/
def inRange (reg count : Byte) (body : State → State) (s : State) : State :=
  if outOfRange reg count then s.raise none .range else body s

/-- A transport call that stores nothing when it fails: `E_BUS`, the registers unchanged. -/
def onBus (body : State → State) (s : State) : State := if s.draws.busError then s.raise none .bus else body s

/-- A read-modify-write of a host: one register, as one access (20_memory.md R82). -/
def hostModify (reg : Byte) (v : Byte) (s : State) : State :=
  ((s.hostStore reg.toNat v (s.draws.junk.headD 0)).settleAfter reg.toNat 1).ret none (.value 0)

/-- The block write: on BusError each byte is stored or not as drawn (93_implementation_defined.md U4). -/
def hostWrite (reg : Byte) (data : List Byte) (s : State) : State :=
  let stored := if s.draws.busError then s.draws.stored else List.replicate data.length true
  let t := (s.hostStoreBlock reg.toNat data s.draws.junk stored).settleAfter reg.toNat data.length
  if s.draws.busError then t.raise none .bus else t.ret none (.value 0)

/-- READ_REGISTER_BLOCK (43_suspend_and_tasks.md R268). -/
def execReadRegisterBlock (reg count : Byte) (s : State) : Result :=
  hostCommand s none (throughGate none (inRange reg count (onBus fun s =>
    (s.clearCovered reg.toNat count.toNat).ret none (.bytes (s.readBlock reg.toNat count.toNat)))))

/-- WRITE_REGISTER_BLOCK (43_suspend_and_tasks.md R269). -/
def execWriteRegisterBlock (reg count : Byte) (data : List Byte) (s : State) : Result :=
  hostCommand s none (throughGate none (inRange reg count fun s =>
    if data.length ≠ count.toNat then s.raise none .range else hostWrite reg data s))

/-- SET_BITS (43_suspend_and_tasks.md R270). -/
def execSetBits (reg mask : Byte) (s : State) : Result :=
  hostCommand s none (throughGate none (onBus fun s => hostModify reg (s.reg reg.toNat ||| mask) s))

/-- CLEAR_BITS (43_suspend_and_tasks.md R271). -/
def execClearBits (reg mask : Byte) (s : State) : Result :=
  hostCommand s none (throughGate none (onBus fun s => hostModify reg (s.reg reg.toNat &&& ~~~mask) s))

end Sys2Proof.Machine
end

