-- ==== Sys2Proof/Machine/Dispatch.lean ====
section
/-! DEFINITION. The meaning of each operation: one arm per constructor of Instr. -/

namespace Sys2Proof.Machine

def exec (i : Instr) (s : State) : Host.Outcome State Fault Refusal :=
  match i with
  | .probe => Sys2Proof.Machine.execProbe s
  | .adcAsyncRead chan avg f param => Sys2Proof.Machine.execAdcAsyncRead chan avg f param s
  | .adcSyncRead chan avg w => Sys2Proof.Machine.execAdcSyncRead chan avg w s
  | .batteryVoltage w => Sys2Proof.Machine.execBatteryVoltage w s
  | .notifyUsbCurlim ma => Sys2Proof.Machine.execNotifyUsbCurlim ma s
  | .readRegisterBlock reg count => Sys2Proof.Machine.execReadRegisterBlock reg count s
  | .writeRegisterBlock reg count data => Sys2Proof.Machine.execWriteRegisterBlock reg count data s
  | .setBits reg mask => Sys2Proof.Machine.execSetBits reg mask s
  | .clearBits reg mask => Sys2Proof.Machine.execClearBits reg mask s
  | .ready => Sys2Proof.Machine.execReady s
  | .waitUntilReady timeout w => Sys2Proof.Machine.execWaitUntilReady timeout w s
  | .goStandby => Sys2Proof.Machine.execGoStandby s
  | .suspend => Sys2Proof.Machine.execSuspend s
  | .resume => Sys2Proof.Machine.execResume s
  | .adcEnqueue chan avg target param => Sys2Proof.Machine.execAdcEnqueue chan avg target param s
  | .adcStart r => Sys2Proof.Machine.execAdcStart r s
  | .adcComplete => Sys2Proof.Machine.execAdcComplete s
  | .classify sample usbPresent => Sys2Proof.Machine.execClassify sample usbPresent s
  | .applyPolicy type => Sys2Proof.Machine.execApplyPolicy type s
  | .setCurrentLimit ma => Sys2Proof.Machine.execSetCurrentLimit ma s
  | .chargeEnable on => Sys2Proof.Machine.execChargeEnable on s
  | .autoresumeHandshake => Sys2Proof.Machine.execAutoresumeHandshake s
  | .classifyTrigger => Sys2Proof.Machine.execClassifyTrigger s
  | .classifyDone snapshot result => Sys2Proof.Machine.execClassifyDone snapshot result s
  | .curlimTask => Sys2Proof.Machine.execCurlimTask s
  | .batfullDance => Sys2Proof.Machine.execBatfullDance s
  | .dispatch => Sys2Proof.Machine.execDispatch s
  | .nobatStart => Sys2Proof.Machine.execNobatStart s
  | .nobatPoll => Sys2Proof.Machine.execNobatPoll s
  | .evChgIns => Sys2Proof.Machine.execEvChgIns s
  | .evChgRem => Sys2Proof.Machine.execEvChgRem s
  | .evUsbIns => Sys2Proof.Machine.execEvUsbIns s
  | .evUsbRem => Sys2Proof.Machine.execEvUsbRem s
  | .evAlarm => Sys2Proof.Machine.execEvAlarm s
  | .evTick => Sys2Proof.Machine.execEvTick s
  | .evOnkeyF => Sys2Proof.Machine.execEvOnkeyF s
  | .evOnkeyR => Sys2Proof.Machine.execEvOnkeyR s
  | .evOnkey1s => Sys2Proof.Machine.execEvOnkey1s s
  | .evBatfull => Sys2Proof.Machine.execEvBatfull s
  | .evChghalt => Sys2Proof.Machine.execEvChghalt s
  | .evThlimOn => Sys2Proof.Machine.execEvThlimOn s
  | .evThlimOff => Sys2Proof.Machine.execEvThlimOff s
  | .evUsblimOn => Sys2Proof.Machine.execEvUsblimOn s
  | .evUsblimOff => Sys2Proof.Machine.execEvUsblimOff s
  | .evAdcRdy => Sys2Proof.Machine.execEvAdcRdy s
  | .evLowbat => Sys2Proof.Machine.execEvLowbat s
  | .evLowsys => Sys2Proof.Machine.execEvLowsys s
  | .evHightemp => Sys2Proof.Machine.execEvHightemp s
  | .evAutopwrfail => Sys2Proof.Machine.execEvAutopwrfail s
  | .evSubregFail0 => Sys2Proof.Machine.execEvSubregFail0 s
  | .evSubregFail1 => Sys2Proof.Machine.execEvSubregFail1 s
  | .evSubregFail2 => Sys2Proof.Machine.execEvSubregFail2 s
  | .evSubregFail3 => Sys2Proof.Machine.execEvSubregFail3 s
  | .evSubregFail4 => Sys2Proof.Machine.execEvSubregFail4 s
  | .evSubregFail5 => Sys2Proof.Machine.execEvSubregFail5 s
  | .evSubregFail6 => Sys2Proof.Machine.execEvSubregFail6 s
  | .evSubregFail7 => Sys2Proof.Machine.execEvSubregFail7 s
  | .evSubregFail8 => Sys2Proof.Machine.execEvSubregFail8 s
  | .evSubregFail9 => Sys2Proof.Machine.execEvSubregFail9 s
  | .evLedFail => Sys2Proof.Machine.execEvLedFail s
  | .evLedOvp => Sys2Proof.Machine.execEvLedOvp s
  | .pmuRaise byte bit => Sys2Proof.Machine.execPmuRaise byte bit s
  | .adcHwDone value => Sys2Proof.Machine.execAdcHwDone value s
  | .irqEdge => Sys2Proof.Machine.execIrqEdge s
  | .envSetStatus reg v => Sys2Proof.Machine.execEnvSetStatus reg v s
  | .envRtcWant b => Sys2Proof.Machine.execEnvRtcWant b s

end Sys2Proof.Machine
end

