-- ==== Sys2Proof/Machine/Fetch.lean ====
section
/-! DEFINITION. Selecting the next operation: the turn at the head of the schedule, and what it asks for
(10_state.md R44, 00_scope.md R9; log 6), or the micro-operation a rule invokes (30_encoding.md R100; log 10). -/

namespace Sys2Proof.Machine

/-- What a turn asks for. -/
inductive Fetched
  /-- an operation of the table -/
  | instr (i : Instr)
  /-- a command word with an illegal `op` (30_encoding.md R112) -/
  | illegalCommand
  /-- a label word that is no operation -/
  | undecodable (why : DecodeError)
  /-- the coordinator's second transition -/
  | coordinator
  /-- a wake-up -/
  | wake (w : Byte)
  /-- nothing but time -/
  | idle
  deriving DecidableEq, Repr

/-- The event at which the pass in progress stands, if it stands at one. -/
def State.eventAtHand (s : State) : Option Event :=
  match s.disp, s.pass with
  | .idle, _ => none
  | _, some p =>
    match p.next with
    | .event e => some e
    | .usbInsB => some .usbIns
    | _ => none
  | _, none => none

/-- An operation by its label: the Dispatcher's turn at an event is that event's operation, fetched from the status block
(42_interrupt_dispatcher.md R206). An internal micro-operation is never selectable from outside (30_encoding.md R100). -/
def fetchLabel (s : State) (code : Byte) (args : List Int) : Fetched :=
  if internalCode code then .undecodable (.notSelectable code)
  else
    match decodeLabel code args with
    | .ok .dispatch =>
      match s.eventAtHand with
      | some e => .instr e.instr
      | none => .instr .dispatch
    | .ok i => .instr i
    | .error why => .undecodable why

/-- The micro-operation a rule invokes, and nothing else (30_encoding.md R100). -/
def fetchInvoked (call : Invocation) : Fetched :=
  if internalCode call.code then
    match decodeLabel call.code call.args with
    | .ok i => .instr i
    | .error why => .undecodable why
  else .undecodable (.notSelectable call.code)

/-- What a request asks for in a state. -/
def fetch (s : State) : Request → Fetched
  | .command w param data =>
    match decodeCommand w param data with
    | .ok i => .instr i
    | .error _ => .illegalCommand
  | .label code args => fetchLabel s code args
  | .coordinator => .coordinator
  | .wake w => .wake w
  | .idle => .idle

/-- Taking a turn: time passes, the turn's draws are in force, the turn is consumed. -/
def State.take (s : State) (t : Turn) (rest : List Turn) : State :=
  { s with port := rest, draws := t.draws, now := s.now + t.draws.elapsed }

/-- The label word of the Dispatcher's turn (30_encoding.md R113). -/
def dispatcherTurn : Request := .label 0x4C []

/-- A turn with no time passing and every draw zero. -/
def plainTurn (r : Request) : Turn := ⟨r, Draws.zero⟩

/-- The next micro-step of a pass whose whole block is still to be decoded. -/
def firstMicroStep (cfg : Config) (block : Block) : MicroStep := nextMicroStep cfg block Event.order

/-- Placing an operation word where the next step fetches: a command word, or the label word of a task or an input, at the
head of the schedule; an internal micro-operation as the one a rule invokes (30_encoding.md R100, log 10); a status block
in the Dispatcher's pass, at its first event, and the Dispatcher's turn at the head of the schedule. -/
def State.placeWord (s : State) : OpWord → State
  | .command w param data => { s with port := plainTurn (.command w param data) :: s.port, invoked := none }
  | .label code args =>
    if internalCode code then { s with invoked := some ⟨code, args⟩ }
    else { s with port := plainTurn (.label code args) :: s.port, invoked := none }
  | .status block =>
    { s with
      disp := .running
      pass := some ⟨block, firstMicroStep s.cfg block, false⟩
      port := plainTurn dispatcherTurn :: s.port
      invoked := none }

end Sys2Proof.Machine
end

