-- ==== Sys2Proof/Machine/Step.lean ====
section
/-! DEFINITION. One step: the turn at the head of the schedule (00_scope.md R9, R10). -/

namespace Sys2Proof.Machine

/-- What a fetched request does. An illegal command word is refused by the block with E_ACCESS and changes nothing
(30_encoding.md R112). -/
def perform (s : State) : Fetched → Host.Outcome State Fault Refusal
  | .instr i => exec i s
  | .illegalCommand => .next (s.raise none .access)
  | .undecodable why => .refused (.undecodable why)
  | .coordinator => .next (coordinatorFinish s)
  | .wake w => .next (wakeCaller w s)
  | .idle => .next s

/-- One step. A micro-operation that a rule invokes runs at once, in the turn that invokes it: no time passes and the draws
stay (30_encoding.md R100, log 10). An empty schedule is an idle block: nothing changes (60_exceptions.md R322). After the standby command no
step is enabled (10_state.md R34). A configuration outside the constraints of U17 is no hardware. -/
def step (s : State) : Host.Outcome State Fault Refusal :=
  if s.cfg.wf then
    if s.standbyIssued then .fault .poweredDown
    else
      match s.invoked, s.port with
      | some call, _ => perform { s with invoked := none } (fetchInvoked call)
      | none, [] => .next s
      | none, t :: rest => perform (s.take t rest) (fetch (s.take t rest) t.request)
  else .fault .badConfiguration

/-- The state with the operation word of a table row placed where the next step fetches (log 6, log 19). -/
def State.withFetchWord (s : State) (nbits w : Nat) : State := s.placeWord (tableWord nbits w)

end Sys2Proof.Machine
end

