-- ==== Sys2Proof/Safety.lean ====
section
/-! DEFINITION. The terms the statements use: what a sound and serving state is, the FIFO as a queue (10_state.md R42),
the invariant of the machine, the order of the suspend states (43_suspend_and_tasks.md R262), and the effects of the
shared operations written out field by field. -/

namespace Sys2Proof.Machine

/-! ### Conditions on a state -/

/-- The configuration meets the constraints of U17 and the register space is in canonical form. -/
abbrev State.Sound (s : State) : Prop := s.cfg.wf = true ∧ Memory.wf s.regs = true

/-- The device is powered and the access gate is open (20_memory.md R79). -/
abbrev State.Live (s : State) : Prop := s.standbyIssued = false ∧ s.accessAllowed = true

/-- A host command that touches registers is accepted: powered, past PROBE, gate open (60_exceptions.md R303, R305). -/
abbrev State.Serving (s : State) : Prop := s.Live ∧ s.probed = true

/-- Every register reads as before. -/
abbrev SameRegs (s t : State) : Prop := ∀ a, t.reg a = s.reg a

/-- Every register outside the list reads as before. -/
abbrev SameRegsBut (l : List Nat) (s t : State) : Prop := ∀ a, a ∉ l → t.reg a = s.reg a

/-! ### The FIFO (10_state.md R42) -/

/-- How far slot `k` lies behind the oldest request. -/
def State.offset (s : State) (k : Nat) : Nat := (k + s.cfg.depth - s.tail) % s.cfg.depth

/-- Indices in range, and the occupied slots are exactly `tail, ..., head - 1` (10_state.md R41, R42). -/
abbrev State.FifoOk (s : State) : Prop :=
  s.slots.length = s.cfg.depth ∧ s.head < s.cfg.depth ∧ s.tail < s.cfg.depth ∧
    ∀ k < s.cfg.depth, (s.slot k).isSome = true ↔ s.offset k < s.pendingCount

/-- The pending requests, oldest first. -/
def State.pending (s : State) : List AdcRequest :=
  (List.range s.pendingCount).filterMap fun j => s.slot ((s.tail + j) % s.cfg.depth)

/-! ### The invariant -/

/-- What holds in every reachable state: a sound state, the FIFO of R42, the range of the held counter (R26), the position
of a pass exists exactly while a pass runs (R57), a pass runs only past PROBE and with the gate open (R201, R202, R260), an
edge already seen means a line still high (R235), no task state of the notifier but idle between transitions (R179), and
before PROBE the suspend state is the initial one. -/
abbrev State.Inv (s : State) : Prop :=
  s.Sound ∧ s.FifoOk ∧ -1 ≤ s.onkeySeconds ∧ (s.pass.isSome = true ↔ s.disp ≠ .idle) ∧
    (s.disp ≠ .idle → s.accessAllowed = true ∧ s.probed = true) ∧ (s.irqSeen = true → s.irqLine = true) ∧
    s.curlim.task = .idle ∧ (s.probed = false → s.suspend = .running)

/-! ### The suspend states (43_suspend_and_tasks.md R262) -/

/-- The five transitions of the table of R262. -/
inductive SuspendEdge : SuspendState → SuspendState → Prop
  | suspendStart : SuspendEdge .running .startingSuspend
  | suspendFinish : SuspendEdge .startingSuspend .completedSuspend
  | resumeStart : SuspendEdge .completedSuspend .startingResume
  | resumeFinish : SuspendEdge .startingResume .completedResume
  | lazyRunning : SuspendEdge .completedResume .running

/-! ### Effects written out -/

/-- The position of the pass once event `e` is done. -/
def passAfter (e : Event) (s : State) : Option Pass :=
  s.pass.map fun p => { p with next := nextMicroStep s.cfg p.block e.after }

/-- `t` is `s` after request `r` was accepted (40_adc_scheduler.md R140): the request in the slot at `head`, the index
moved; where the FIFO was empty the converter is started on it (R141), else no register and no converter is touched; and
nothing else. -/
def Accepted (r : AdcRequest) (s t : State) : Prop :=
  t.slots = s.slots.set s.head (some r) ∧ t.head = (s.head + 1) % s.cfg.depth ∧
    (if s.head = s.tail then
      t.reg s.cfg.aAdcctl.toNat = adcctlByte s.cfg r.chan r.avg ∧ t.adcHw = .converting r.chan r.avg ∧
        SameRegsBut [s.cfg.aAdcctl.toNat] s t
    else t.adcHw = s.adcHw ∧ SameRegs s t) ∧
    t = { s with slots := t.slots, head := t.head, adcHw := t.adcHw, regs := t.regs }

/-- `t` is `s` after the last step of ADC_COMPLETE (40_adc_scheduler.md R142): where a request is pending the converter is
started on the oldest one, else nothing happens. -/
def Restarted (s t : State) : Prop :=
  if s.head = s.tail then t = s
  else
    ∃ q, s.slot s.tail = some q ∧ t.reg s.cfg.aAdcctl.toNat = adcctlByte s.cfg q.chan q.avg ∧
      t.adcHw = .converting q.chan q.avg ∧ SameRegsBut [s.cfg.aAdcctl.toNat] s t ∧
      t = { s with adcHw := t.adcHw, regs := t.regs }

/-- The oldest request taken out, and the index moved (40_adc_scheduler.md R142). -/
def popped (s : State) : State := { s with slots := s.slots.set s.tail none, tail := (s.tail + 1) % s.cfg.depth }

/-- The classification request of the current removal count (41_charger_fsm.md R176). -/
def classifyRequest (s : State) : AdcRequest :=
  ⟨s.cfg.classifyChan, s.cfg.classifyAvg, .classify, s.usbRemovalCount⟩

/-- `t` is `s` after the classification read was asked for (41_charger_fsm.md R176): the request accepted, or, where the
FIFO is full, the two reports (both, in this order: log 29, DEDUCED) and nothing else. -/
def Triggered (s t : State) : Prop :=
  if (s.head + 1) % s.cfg.depth = s.tail then
    t = { s with outputs := s.outputs ++ [.defect .adcQueueFull, .warn .classifyDropped] }
  else Accepted (classifyRequest s) s t

/-- What CHARGE_ENABLE makes of the byte of CHGCTL (41_charger_fsm.md R174). -/
def enableByte (cfg : Config) (on : Bool) (v : Byte) : Byte :=
  if cfg.featCharger then if on then v ||| cfg.chgena else v &&& ~~~cfg.chgena else v

/-- What AUTORESUME_HANDSHAKE makes of the byte of CHGCTL (41_charger_fsm.md R175). -/
def handshakeByte (cfg : Config) (v : Byte) : Byte := ((v &&& ~~~cfg.autores) ||| cfg.resumeBit) ||| cfg.autores

/-- What CHARGE_ENABLE reports (41_charger_fsm.md R174). -/
def enableNotes (s : State) (on : Bool) : List Output :=
  if s.cfg.featCharger then
    if on then if s.flags.usbPresent then [.notify .chargerActive] else []
    else if s.flags.usbPresent || !s.cfg.chgIdleNotifyNeedsUsb then [.notify .chargerIdle] else []
  else []

/-- The limit APPLY_POLICY sets for a type (41_charger_fsm.md R171). -/
def policyLimit (s : State) : ChargerType → Nat
  | .none => 0
  | .hostLimited => if s.lastCurlim > s.cfg.curlimFloor then s.lastCurlim else s.cfg.curlimFloor
  | .oneAmp => s.cfg.curlimMax

/-- `t` is `s` after the current limit was set to `ma` (41_charger_fsm.md R172): the tier's code in USBLIM, the charge
enable and the handshake in CHGCTL, every other register as before but those of `more`, the flag and the notification of
CHARGE_ENABLE, and nothing else. -/
def LimitSet (ma : Nat) (more : List Nat) (s t : State) : Prop :=
  let tier := quantize ma
  let u := s.cfg.aUsblim.toNat
  let c := s.cfg.aChgctl.toNat
  t.reg u = (s.reg u &&& ~~~s.cfg.usblimMask) ||| (tier.code s.cfg &&& s.cfg.usblimMask) ∧
    t.reg c = handshakeByte s.cfg (enableByte s.cfg tier.capable (s.reg c)) ∧
    SameRegsBut ([u, c] ++ more) s t ∧
    t.flags.chgEnabled = (if s.cfg.featCharger then tier.capable else s.flags.chgEnabled) ∧
    t.flags = { s.flags with chgEnabled := t.flags.chgEnabled } ∧
    t.outputs = s.outputs ++ enableNotes s tier.capable ∧
    t = { s with flags := t.flags, outputs := t.outputs, regs := t.regs }

/-- `t` is `s` after the policy for a type was applied (41_charger_fsm.md R171). -/
def PolicySet (type : ChargerType) (s t : State) : Prop :=
  let fast := s.cfg.aFastchg.toNat
  let gpo := s.cfg.aGpo.toNat
  t.reg fast = s.cfg.fastchgMax ∧
    t.reg gpo = (if type = .oneAmp then s.reg gpo &&& ~~~s.cfg.gpoContendMask else s.reg gpo) ∧
    LimitSet (policyLimit s type) [fast, gpo] s t

/-- The type of a sample (41_charger_fsm.md R170). -/
def typeOf (cfg : Config) (sample : Nat) (usbPresent : Bool) : ChargerType :=
  if sample < (cfg.detectNone + cfg.detect1A) / 2 then .oneAmp else if usbPresent then .hostLimited else .none

/-- `t` is `s` after a host's read-modify-write left `v` in register `a` (43_suspend_and_tasks.md R270, R271; the effects of
20_memory.md R77). What a read-only register holds afterwards is open (93_implementation_defined.md U3). -/
def HostStored (a : Nat) (v : Byte) (s t : State) : Prop :=
  (s.readOnly a = false → t.reg a = v) ∧ SameRegsBut [a] s t ∧
    t.adcHw = (if a = s.cfg.aAdcctl.toNat ∧ adcctlStarts s.cfg v then
      .converting (adcctlChan s.cfg v) (adcctlAvg s.cfg v) else s.adcHw) ∧
    t.standbyIssued = (s.standbyIssued || (a == s.cfg.aStandby.toNat && allSet v s.cfg.standbyCmd)) ∧
    t.irqSeen = (if s.touchesLine a 1 then s.irqSeen && t.irqLine else s.irqSeen) ∧
    t.returns = s.returns ++ [⟨none, .value 0⟩] ∧
    t = { s with regs := t.regs, adcHw := t.adcHw, standbyIssued := t.standbyIssued, irqSeen := t.irqSeen,
                 returns := t.returns }

/-- Register `a` is one of the `n` registers from `reg` on. -/
abbrev InBlock (reg n a : Nat) : Prop := reg ≤ a ∧ a < reg + n

/-- The ten-bit result in the converter's registers (30_encoding.md R106). -/
def resultIn (s : State) : BitVec 10 :=
  ((s.reg s.cfg.aAdcresHi.toNat).setWidth 10 <<< 2) |||
    (s.reg s.cfg.aAdcresLo.toNat &&& s.cfg.loMask).setWidth 10

/-- The host commands that E_ACCESS guards before PROBE (60_exceptions.md R303), with the caller they answer. -/
def guardedCaller : Instr → Option (Option Byte)
  | .adcAsyncRead .. => some none
  | .adcSyncRead _ _ w => some (some w)
  | .batteryVoltage w => some (some w)
  | .notifyUsbCurlim _ => some none
  | .readRegisterBlock .. => some none
  | .writeRegisterBlock .. => some none
  | .setBits .. => some none
  | .clearBits .. => some none
  | .goStandby => some none
  | .suspend => some none
  | .resume => some none
  | _ => none

/-- The host commands that the access gate stops (60_exceptions.md R305), with the caller they answer. -/
def gatedCaller : Instr → Option (Option Byte)
  | .notifyUsbCurlim _ => none
  | .suspend => none
  | .resume => none
  | i => guardedCaller i

/-- An operation processes a removal that counts: EV_USB_REM, or the Dispatcher's turn at it, without EV_USB_INS in the
same block (42_interrupt_dispatcher.md R213). -/
def countsRemoval (s : State) : Instr → Bool
  | .evUsbRem => !s.passHas .usbIns
  | .dispatch => s.eventAtHand == some .usbRem && !s.passHas .usbIns
  | _ => false

/-- The events a pass visits from a micro-step on (42_interrupt_dispatcher.md R200, R206). -/
inductive Visits (cfg : Config) (block : Block) : MicroStep → List Event → Prop
  | exit : Visits cfg block .exit []
  | event (e : Event) (l : List Event) :
    Visits cfg block (nextMicroStep cfg block e.after) l → Visits cfg block (.event e) (e :: l)

/-- The environment inputs that change a register (00_scope.md R9). -/
def pmuInput : Instr → Bool
  | .pmuRaise .. => true
  | .adcHwDone _ => true
  | .envSetStatus .. => true
  | _ => false

end Sys2Proof.Machine
end

