-- ==== Sys2Proof/Certificates/Slice0/Obligations.lean ====
section
/-! DEFINITION. The statements for the provers. Each docstring names the rules of spec/ it rests on, and the log entry where
a clause is the model's choice. -/

open Sys2Proof Sys2Proof.Machine

/-! ### Encoding -/

/-- Decoding the word of a well-formed operation gives that operation, for every configuration that meets the constraints
(30_encoding.md R101 to R103, R110, R113, R118). The operands of the label words are the model's form (log 11). -/
def Obligations.DecodeEncodeRoundTrip : Prop :=
  ∀ (cfg : Config) (i : Instr), cfg.wf = true → i.WellFormed = true → decode cfg (encode cfg i) = .ok i

/-- Words written out from 30_encoding.md R101, R103, R113: a command, a command with ignored bits set, two label words,
an event mask, a block with two events, a block with no named event. Two things are the model's choice, DESIGN CHOICE: the
operand lists of the two label words, to which the spec gives no bits (log 11), and that a block with two events is read as
the earlier one in the processing order (log 19). -/
def Obligations.SampleWordsDecode : Prop :=
  decode Config.test (.command 0x01070301 5 []) = .ok (.adcAsyncRead 7 3 1 5) ∧
    decode Config.test (.command 0x01F7FF01 5 []) = .ok (.adcAsyncRead 7 3 1 5) ∧
    decode Config.test (.command 0x0401F400 0 []) = .ok (.notifyUsbCurlim 500) ∧
    decode Config.test (.command 0x0A03E804 0 []) = .ok (.waitUntilReady 1000 4) ∧
    decode Config.test (.label 0x45 [750]) = .ok (.setCurrentLimit 750) ∧
    decode Config.test (.label 0xC0 [2, 6]) = .ok (.pmuRaise 2 6) ∧
    decode Config.test (.status 0x0000400000) = .ok .evAdcRdy ∧
    decode Config.test (.status 0x0000000300) = .ok .evOnkeyF ∧
    decode Config.test (.status 0x000000FC30) = .error .noEvent

/-- The table of 30_encoding.md R101: each command with its operands, whatever stands in the fields marked `-`. -/
def Obligations.CommandTable : Prop :=
  ∀ (a b c : Byte) (p : BitVec 32) (d : List Byte),
    decodeCommand (commandWord 0x00 a b c) p d = .ok .probe ∧
      decodeCommand (commandWord 0x01 a b c) p d =
        .ok (.adcAsyncRead (a.extractLsb' 0 4) (b.extractLsb' 0 2) c p) ∧
      decodeCommand (commandWord 0x02 a b c) p d = .ok (.adcSyncRead (a.extractLsb' 0 4) (b.extractLsb' 0 2) c) ∧
      decodeCommand (commandWord 0x03 a b c) p d = .ok (.batteryVoltage c) ∧
      decodeCommand (commandWord 0x04 a b c) p d = .ok (.notifyUsbCurlim (a ++ b)) ∧
      decodeCommand (commandWord 0x05 a b c) p d = .ok (.readRegisterBlock a b) ∧
      decodeCommand (commandWord 0x06 a b c) p d = .ok (.writeRegisterBlock a b d) ∧
      decodeCommand (commandWord 0x07 a b c) p d = .ok (.setBits a b) ∧
      decodeCommand (commandWord 0x08 a b c) p d = .ok (.clearBits a b) ∧
      decodeCommand (commandWord 0x09 a b c) p d = .ok .ready ∧
      decodeCommand (commandWord 0x0A a b c) p d = .ok (.waitUntilReady (a ++ b) c) ∧
      decodeCommand (commandWord 0x0B a b c) p d = .ok .goStandby ∧
      decodeCommand (commandWord 0x0C a b c) p d = .ok .suspend ∧
      decodeCommand (commandWord 0x0D a b c) p d = .ok .resume

/-- Illegal and ignored encodings (30_encoding.md R112): a word with `op` above 0x0D, so every word with a UOP, EVT or ENV
label code, is answered with E_ACCESS and changes nothing else (the step takes a turn where no micro-operation is about to
run, which in the model's schedule is every state a run from reset reaches: logs 6, 10); the bits outside the named sub-fields of the ADC commands
decide nothing; `count = 0` is E_RANGE. -/
def Obligations.IllegalCommandWords : Prop :=
  (∀ (s : State) (t : Turn) (rest : List Turn) (w : CommandWord) (p : BitVec 32) (d : List Byte),
      s.cfg.wf = true → s.standbyIssued = false → s.invoked = none → s.port = t :: rest → t.request = .command w p d →
        0x0D < (CommandWord.op w).toNat →
          step s = .next { s.take t rest with returns := s.returns ++ [⟨none, .error .access⟩] }) ∧
    (∀ (op a a' b b' c : Byte) (p : BitVec 32) (d : List Byte),
      op = 0x01 ∨ op = 0x02 → a.extractLsb' 0 4 = a'.extractLsb' 0 4 → b.extractLsb' 0 2 = b'.extractLsb' 0 2 →
        decodeCommand (commandWord op a b c) p d = decodeCommand (commandWord op a' b' c) p d) ∧
    ∀ (s : State) (reg : Byte) (d : List Byte), s.Serving →
      exec (.readRegisterBlock reg 0) s = .next { s with returns := s.returns ++ [⟨none, .error .range⟩] } ∧
        exec (.writeRegisterBlock reg 0 d) s = .next { s with returns := s.returns ++ [⟨none, .error .range⟩] }

/-! ### The step -/

/-- One step takes the turn at the head of the schedule (log 6: the schedule is the model's form of 00_scope.md R9, R10),
with the turn's time and draws in force, and does what it asks for: the decoded operation of a command word (R101); the
decoded operation of the label word of a task or an input (R113), where the Dispatcher's turn at an event is that event's
operation (42_interrupt_dispatcher.md R206); a transition of the coordinator; a wake-up; nothing. An internal
micro-operation is never selectable from outside (30_encoding.md R100): a turn with its label code stops, and only one that
a rule invokes runs, at once and with no time passing. The field in which such an invocation stands, and that a turn with
its code stops by this name, are the model's choice, DESIGN CHOICE (log 10). -/
def Obligations.StepRunsDecodedInstruction : Prop :=
  (∀ (s : State), s.cfg.wf = true → s.standbyIssued = false → s.invoked = none → s.port = [] → step s = .next s) ∧
    (∀ (s : State) (code : Byte) (args : List Int) (i : Instr),
      s.cfg.wf = true → s.standbyIssued = false → s.invoked = some ⟨code, args⟩ → internalCode code = true →
        decodeLabel code args = .ok i → step s = exec i { s with invoked := none }) ∧
    ∀ (s u : State) (t : Turn) (rest : List Turn),
      s.cfg.wf = true → s.standbyIssued = false → s.invoked = none → s.port = t :: rest →
        u = { s with port := rest, draws := t.draws, now := s.now + t.draws.elapsed } →
          (∀ (w : CommandWord) (p : BitVec 32) (d : List Byte) (i : Instr),
              t.request = .command w p d → decodeCommand w p d = .ok i → step s = exec i u) ∧
            (∀ (code : Byte) (args : List Int) (i : Instr),
              t.request = .label code args → internalCode code = false → decodeLabel code args = .ok i →
                i ≠ .dispatch → step s = exec i u) ∧
            (∀ (code : Byte) (args : List Int),
              t.request = .label code args →
                code ∈ [0x40#8, 0x41#8, 0x42#8, 0x43#8, 0x44#8, 0x45#8, 0x46#8, 0x47#8, 0x48#8, 0x49#8, 0x4B#8, 0x4D#8] →
                  step s = .refused (.undecodable (.notSelectable code))) ∧
            (t.request = .label 0x4C [] → s.eventAtHand = none → step s = exec .dispatch u) ∧
            (∀ e : Event, t.request = .label 0x4C [] → s.eventAtHand = some e → step s = exec e.instr u) ∧
            (t.request = .coordinator → step s = .next (coordinatorFinish u)) ∧
            (∀ w : Byte, t.request = .wake w → step s = .next (wakeCaller w u)) ∧
            (t.request = .idle → step s = .next u)

/-- Every step keeps the invariant: canonical registers and a legal configuration, the FIFO of 10_state.md R42, the range of
the held counter (R26), a pass exactly while the Dispatcher runs (R57), and then the gate open and the device past PROBE
(42_interrupt_dispatcher.md R201, R202), an edge already seen only while the line is high (R235). -/
def Obligations.StepKeepsInv : Prop := ∀ s t : State, s.Inv → step s = .next t → t.Inv

/-- The invariant holds after reset. -/
def Obligations.ResetMeetsInv : Prop := State.reset.Inv

/-- Reset is PROBE (70_reset_and_hazards.md R340): PROBE takes the state before it to the state after reset, with its
answer 0, and that state has the values of 10_state.md R61, every one of them. Two clauses are the model's: that the state
before PROBE differs from it in `probed` only (log 3, DEDUCED, unsafe for power-up), and that every register reads 0 (log
4, DESIGN CHOICE, unsafe). -/
def Obligations.ResetState : Prop :=
  exec .probe State.powerUp = .next { State.reset with returns := [⟨none, .value 0⟩] } ∧
    State.powerUp = { State.reset with probed := false } ∧
    State.reset.suspend = .running ∧ State.reset.flags = ⟨false, false, false, false, false, false⟩ ∧
    State.reset.lastCurlim = 0 ∧ State.reset.usbRemovalCount = 0 ∧ State.reset.coldplugDone = false ∧
    State.reset.onkeySeconds = -1 ∧ State.reset.resumeSnapshot = ⟨0, 0, 0, 0, 0⟩ ∧
    State.reset.onkeyPressed = false ∧ State.reset.suppressOnkey = false ∧ State.reset.lastBatInsert = none ∧
    State.reset.rtcWantsTick = false ∧ State.reset.savedMask = ⟨0, 0, 0, 0, 0⟩ ∧
    State.reset.probed = true ∧ State.reset.standbyIssued = false ∧ State.reset.irqDelivery = true ∧
    State.reset.disp = .idle ∧ State.reset.dispatchReq = false ∧ State.reset.nobat.running = false ∧
    State.reset.curlim.task = .idle ∧ State.reset.curlim.scheduled = false ∧ State.reset.curlim.pendingMa = 0 ∧
    State.reset.slots.length = State.reset.cfg.depth ∧ (∀ x ∈ State.reset.slots, x = none) ∧
    State.reset.head = 0 ∧ State.reset.tail = 0 ∧ State.reset.waiters = [] ∧ State.reset.adcHw = .idle ∧
    State.reset.pass = none ∧ State.reset.irqSeen = false ∧ ∀ a, State.reset.reg a = 0

/-- PROBE (43_suspend_and_tasks.md R274): from a powered device not yet probed, every field of 10_state.md R61 at its
value, the answer 0, no register written; a second PROBE is E_BUSY and changes nothing else. The values of the two
snapshots, and that time, trace and schedule stay, are the model's (log 5, log 23). -/
def Obligations.Probe : Prop :=
  ∀ s : State, s.standbyIssued = false →
    (s.probed = false →
      exec .probe s = .next
        { cfg := s.cfg, suspend := .running, flags := ⟨false, false, false, false, false, false⟩,
          lastCurlim := 0, usbRemovalCount := 0, coldplugDone := false, onkeySeconds := -1,
          resumeSnapshot := ⟨0, 0, 0, 0, 0⟩, onkeyPressed := false, suppressOnkey := false,
          lastBatInsert := none, rtcWantsTick := false, savedMask := ⟨0, 0, 0, 0, 0⟩, probed := true,
          standbyIssued := false, irqDelivery := true, disp := .idle, dispatchReq := false, pass := none,
          nobat := ⟨false, 0⟩, curlim := ⟨.idle, false, 0, 0⟩, slots := List.replicate s.cfg.depth none,
          head := 0, tail := 0, waiters := [], adcHw := .idle, irqSeen := false, regs := s.regs,
          outputs := s.outputs, returns := s.returns ++ [⟨none, .value 0⟩], now := s.now, draws := s.draws,
          port := s.port, invoked := s.invoked }) ∧
      (s.probed = true → exec .probe s = .next { s with returns := s.returns ++ [⟨none, .error .busy⟩] })

/-! ### Errors -/

/-- Before PROBE (60_exceptions.md R303): every host command but PROBE, READY and WAIT_UNTIL_READY, and every illegal
command word, answers E_ACCESS and changes nothing else. -/
def Obligations.BeforeProbe : Prop :=
  ∀ s : State, s.standbyIssued = false → s.probed = false →
    (∀ (i : Instr) (c : Option Byte), guardedCaller i = some c →
        exec i s = .next { s with returns := s.returns ++ [⟨c, .error .access⟩] }) ∧
      ∀ (w : CommandWord) (p : BitVec 32) (d : List Byte), 0x0D < (CommandWord.op w).toNat →
        perform s (fetch s (.command w p d)) = .next { s with returns := s.returns ++ [⟨none, .error .access⟩] }

/-- A command that would touch a register while the gate is closed (60_exceptions.md R305): one defect report, the answer
E_SUSPEND_VIOLATION, nothing else. The deferred tasks check first and report nothing and write no register. The
coordinator's own transitions are exempt: no defect, no error. -/
def Obligations.GateErrors : Prop :=
  ∀ s : State, s.standbyIssued = false → s.probed = true →
    s.suspend = .startingSuspend ∨ s.suspend = .completedSuspend ∨ s.suspend = .startingResume →
      (∀ (i : Instr) (c : Option Byte), gatedCaller i = some c →
          exec i s = .next
            { s with
              outputs := s.outputs ++ [.defect .suspendViolation]
              returns := s.returns ++ [⟨c, .error .suspendViolation⟩] }) ∧
        (∀ (i : Instr) (t : State), i = .dispatch ∨ i = .curlimTask ∨ i = .nobatPoll → exec i s = .next t →
          t.outputs = s.outputs ∧ t.returns = s.returns ∧ t.regs = s.regs) ∧
        (coordinatorFinish s).outputs = s.outputs ∧
        ((coordinatorFinish s).returns = s.returns ∨
          (coordinatorFinish s).returns = s.returns ++ [⟨none, .value 0⟩])

/-- E_BUSY (60_exceptions.md R306; 43_suspend_and_tasks.md R260, R261): SUSPEND but from `running` with an idle
Dispatcher, RESUME but from `completed_suspend`; nothing else changes. -/
def Obligations.BusyErrors : Prop :=
  ∀ s : State, s.standbyIssued = false → s.probed = true →
    (s.suspend ≠ .running ∨ s.disp ≠ .idle →
        exec .suspend s = .next { s with returns := s.returns ++ [⟨none, .error .busy⟩] }) ∧
      (s.suspend ≠ .completedSuspend →
        exec .resume s = .next { s with returns := s.returns ++ [⟨none, .error .busy⟩] })

/-- A full FIFO (60_exceptions.md R302): ADC_ENQUEUE and the three ADC commands report the defect and answer E_QUEUE_FULL;
CLASSIFY_TRIGGER warns (41_charger_fsm.md R176), and that it reports the defect too, before the warning, is the model's
inference (log 29, DEDUCED, unsafe); the state is otherwise unchanged. -/
def Obligations.QueueFullErrors : Prop :=
  ∀ s : State, s.Serving → (s.head + 1) % s.cfg.depth = s.tail →
    let full : Option Byte → Result := fun c =>
      .next
        { s with
          outputs := s.outputs ++ [.defect .adcQueueFull]
          returns := s.returns ++ [⟨c, .error .queueFull⟩] }
    (∀ chan avg target param, exec (.adcEnqueue chan avg target param) s = full none) ∧
      (∀ chan avg f param, exec (.adcAsyncRead chan avg f param) s = full none) ∧
      (∀ chan avg w, exec (.adcSyncRead chan avg w) s = full (some w)) ∧
      (∀ w, exec (.batteryVoltage w) s = full (some w)) ∧
      exec .classifyTrigger s =
        .next { s with outputs := s.outputs ++ [.defect .adcQueueFull, .warn .classifyDropped] }

/-- E_RANGE of the block commands (43_suspend_and_tasks.md R268, R269): `count = 0`, a block that leaves the register
space, a data length that is not `count`; nothing else changes. -/
def Obligations.RangeErrors : Prop :=
  ∀ (s : State) (reg count : Byte) (data : List Byte), s.Serving →
    (count = 0 ∨ 255 < reg.toNat + count.toNat - 1 →
        exec (.readRegisterBlock reg count) s =
          .next { s with returns := s.returns ++ [⟨none, .error .range⟩] }) ∧
      (count = 0 ∨ 255 < reg.toNat + count.toNat - 1 ∨ data.length ≠ count.toNat →
        exec (.writeRegisterBlock reg count data) s =
          .next { s with returns := s.returns ++ [⟨none, .error .range⟩] })

/-- A transport failure (43_suspend_and_tasks.md R268 to R271; 93_implementation_defined.md U4): the answer is E_BUS; a
read, SET_BITS and CLEAR_BITS change nothing; after a block write a register of the block holds the new byte where the
environment stored it and its old value where it did not, register by register, the side effects of those that were written
take place (a start bit in ADCCTL restarts the converter on the byte's operands, the standby command powers down) and of
the others do not, and no other register changes. `s.draws.stored` is the environment's choice, any list (log 9); a stored
read-only register is open (U3). The model's own, DEDUCED: that a failed read clears no status register (log 15), which
bytes have those two side effects (log 14), and that `irq_seen` follows the line (log 16). -/
def Obligations.BusErrors : Prop :=
  ∀ (s : State) (reg : Byte), s.Sound → s.Serving → s.draws.busError = true →
    (∀ count : Byte, count ≠ 0 → reg.toNat + count.toNat ≤ 256 →
        exec (.readRegisterBlock reg count) s =
          .next { s with returns := s.returns ++ [⟨none, .error .bus⟩] }) ∧
      (∀ mask : Byte,
        exec (.setBits reg mask) s = .next { s with returns := s.returns ++ [⟨none, .error .bus⟩] } ∧
          exec (.clearBits reg mask) s = .next { s with returns := s.returns ++ [⟨none, .error .bus⟩] }) ∧
      ∀ (count : Byte) (data : List Byte), count ≠ 0 → reg.toNat + count.toNat ≤ 256 →
        data.length = count.toNat → ∃ t : State,
          let at_ := fun a => data.getD (a - reg.toNat) 0
          let written := fun a => InBlock reg.toNat count.toNat a ∧ s.draws.stored.getD (a - reg.toNat) false = true
          let ctl := s.cfg.aAdcctl.toNat
          let sby := s.cfg.aStandby.toNat
          exec (.writeRegisterBlock reg count data) s = .next t ∧
            (∀ a, written a → s.readOnly a = false → t.reg a = at_ a) ∧
            (∀ a, ¬written a → t.reg a = s.reg a) ∧
            t.adcHw = (if written ctl ∧ adcctlStarts s.cfg (at_ ctl) = true then
              .converting (adcctlChan s.cfg (at_ ctl)) (adcctlAvg s.cfg (at_ ctl)) else s.adcHw) ∧
            t.standbyIssued = decide (written sby ∧ allSet (at_ sby) s.cfg.standbyCmd = true) ∧
            t.irqSeen = (if s.touchesLine reg.toNat count.toNat then s.irqSeen && t.irqLine else s.irqSeen) ∧
            t.returns = s.returns ++ [⟨none, .error .bus⟩] ∧
            t = { s with regs := t.regs, adcHw := t.adcHw, standbyIssued := t.standbyIssued, irqSeen := t.irqSeen,
                         returns := t.returns }

/-! ### Rules of the whole machine -/

/-- The suspend states (43_suspend_and_tasks.md R262): every step leaves the state or makes one of the five transitions of
the table; each is made by its own rule (SUSPEND S1, S2, RESUME R1, R2, STEP4 of the Dispatcher) and by no other; a command
that would make another is refused. -/
def Obligations.SuspendOrder : Prop :=
  (∀ s t : State, s.Inv → step s = .next t → t.suspend = s.suspend ∨ SuspendEdge s.suspend t.suspend) ∧
    (∀ (i : Instr) (s t : State), s.probed = true → exec i s = .next t → t.suspend ≠ s.suspend →
      (i = .suspend ∧ s.suspend = .running ∧ t.suspend = .startingSuspend) ∨
        (i = .resume ∧ s.suspend = .completedSuspend ∧ t.suspend = .startingResume) ∨
        (i = .dispatch ∧ (s.pass.map Pass.next) = some .step4 ∧ s.suspend = .completedResume ∧
          t.suspend = .running)) ∧
    (∀ s : State, (coordinatorFinish s).suspend ≠ s.suspend →
      (s.suspend = .startingSuspend ∧ (coordinatorFinish s).suspend = .completedSuspend) ∨
        (s.suspend = .startingResume ∧ (coordinatorFinish s).suspend = .completedResume)) ∧
    ∀ s : State, s.standbyIssued = false → s.probed = true →
      (s.suspend ≠ .running → exec .suspend s = .next { s with returns := s.returns ++ [⟨none, .error .busy⟩] }) ∧
        (s.suspend ≠ .completedSuspend →
          exec .resume s = .next { s with returns := s.returns ++ [⟨none, .error .busy⟩] })

/-- While the access gate is closed no operation but an input of the PMU changes a register (20_memory.md R79; the
coordinator's second transitions are exempt, 90_conflicts.md C1). -/
def Obligations.GateClosedNoRegisterWrites : Prop :=
  ∀ (i : Instr) (s t : State), s.accessAllowed = false → pmuInput i = false → exec i s = .next t → t.regs = s.regs

/-- After the standby command nothing is enabled any more (10_state.md R34, 93_implementation_defined.md U8 `stuck`): every
operation and every step stops. That it stops with this fault is the model's (log 8). -/
def Obligations.StandbyIsTerminal : Prop :=
  (∀ (i : Instr) (s : State), s.standbyIssued = true → exec i s = .fault .poweredDown) ∧
    ∀ s : State, s.cfg.wf = true → s.standbyIssued = true → step s = .fault .poweredDown

/-- The removal counter (10_state.md R24, 42_interrupt_dispatcher.md R237 (e)) rises by one for each processed EV_USB_REM
and by nothing else; it never wraps where COUNTER_BITS is unbounded, as it is in the spec. With a finite width, the
departure that R24 allows, it counts modulo that width (log 22). -/
def Obligations.RemovalCounter : Prop :=
  ∀ (i : Instr) (s t : State), i ≠ .probe → exec i s = .next t →
    (s.cfg.counterBits = none →
        t.usbRemovalCount = s.usbRemovalCount + (if countsRemoval s i then 1 else 0)) ∧
      ∀ w : Nat, s.cfg.counterBits = some w →
        t.usbRemovalCount =
          if countsRemoval s i then (s.usbRemovalCount + 1) % 2 ^ w else s.usbRemovalCount

/-- What no step undoes: the configuration stays (00_scope.md R6, 70_reset_and_hazards.md R342), time never goes back
(R12), the output trace and the model's record of answers only grow (R8, R11, log 5); past PROBE the two flags no rule
writes keep their value (10_state.md R22), the cold-plug flag is never cleared (R25), nor is `probed` (R33). And no step
leaves a micro-operation behind to run on its own (30_encoding.md R100, log 10). -/
def Obligations.WhatNoStepUndoes : Prop :=
  ∀ s t : State, step s = .next t →
    t.cfg = s.cfg ∧ s.now ≤ t.now ∧ s.outputs <+: t.outputs ∧ s.returns <+: t.returns ∧ t.invoked = none ∧
      (s.probed = true →
        t.flags.chgReady = s.flags.chgReady ∧ t.flags.chgError = s.flags.chgError ∧
          (s.coldplugDone = true → t.coldplugDone = true) ∧ t.probed = true)

/-- A transition whose guard is false does not happen, and the turn changes nothing: that is the model's form (log 7) of
the guards of DISPATCH (42_interrupt_dispatcher.md R201), CURLIM_TASK (41_charger_fsm.md R179), NOBAT_POLL
(43_suspend_and_tasks.md R264, R274), ADC_HW_DONE (40_adc_scheduler.md R146) and IRQ_EDGE (R235). -/
def Obligations.DisabledTransitionsStutter : Prop :=
  ∀ s : State, s.standbyIssued = false →
    (s.disp = .idle → s.dispatchReq = false ∨ s.probed = false → exec .dispatch s = .next s) ∧
      (s.probed = false ∨ s.curlim.scheduled = false ∨ s.curlim.task ≠ .idle → exec .curlimTask s = .next s) ∧
      (s.probed = false ∨ s.nobat.running = false → exec .nobatPoll s = .next s) ∧
      (s.adcHw = .idle → ∀ value : BitVec 10, exec (.adcHwDone value) s = .next s) ∧
      (s.irqDelivery = false ∨ s.irqLine = false ∨ s.irqSeen = true ∨ s.probed = false →
        exec .irqEdge s = .next s)

/-- The ring buffer is a queue (10_state.md R42, 40_adc_scheduler.md R140, R142, R147): the pending requests are none
exactly when the indices agree, fewer than `N`, and `N - 1` exactly when the FIFO is full; an accepted request goes to the
end; a completion takes the oldest one and reports its result first; no other operation but PROBE does more than one of
these. -/
def Obligations.FifoIsAQueue : Prop :=
  ∀ s : State, s.cfg.wf = true → s.FifoOk →
    (s.pending = [] ↔ s.head = s.tail) ∧ s.pending.length = s.pendingCount ∧ s.pending.length < s.cfg.depth ∧
      (s.pending.length + 1 = s.cfg.depth ↔ (s.head + 1) % s.cfg.depth = s.tail) ∧
      (∀ chan avg target param t, exec (.adcEnqueue chan avg target param) s = .next t →
        t.FifoOk ∧
          t.pending =
            if s.pending.length + 1 = s.cfg.depth then s.pending else s.pending ++ [⟨chan, avg, target, param⟩]) ∧
      (∀ t, exec .adcComplete s = .next t →
        t.FifoOk ∧ t.pending = s.pending.tail ∧
          ∀ r, s.pending.head? = some r → ∃ more,
            t.outputs = s.outputs ++ .adcDone r.target r.param (resultIn s).toNat :: more) ∧
      ∀ (i : Instr) (t : State), i ≠ .probe → exec i s = .next t →
        t.FifoOk ∧ (t.pending = s.pending ∨ (∃ r, t.pending = s.pending ++ [r]) ∨ t.pending = s.pending.tail)

/-- A pass visits every event present in its block exactly once, in the order of 30_encoding.md R104, EV_LOWBAT and
EV_LOWSYS together once (42_interrupt_dispatcher.md R206, R226), and then leaves. The order is R104's: the label codes
0x80 to 0x9F of R113, ascending. -/
def Obligations.PassRunsEventsInOrder : Prop :=
  Event.order.Nodup ∧ (∀ e : Event, e ∈ Event.order) ∧
    (Event.order.map fun e => e.instr.labelCode) = (List.range 32).map (fun k => BitVec.ofNat 8 (0x80 + k)) ∧
    (Event.order.map fun e => e.rank.val) = List.range 32 ∧
    ∀ (cfg : Config) (block : Block),
      Visits cfg block (nextMicroStep cfg block Event.order)
        (Event.order.filter fun e => cfg.present block e && !(e == .lowsys && cfg.present block .lowbat))

/-- The tiers (41_charger_fsm.md R173): quantization is monotone, idempotent, never above its argument, with exactly four
values, and has the boundary values of the rule; the threshold is computed in unbounded integers from two levels in
0..1023. -/
def Obligations.QuantizeProperties : Prop :=
  (∀ x y : Nat, x ≤ y → (quantize x).ma ≤ (quantize y).ma) ∧
    (∀ x : Nat, quantize (quantize x).ma = quantize x) ∧ (∀ x : Nat, (quantize x).ma ≤ x) ∧
    (∀ v : Nat, (∃ x, (quantize x).ma = v) ↔ v = 0 ∨ v = 100 ∨ v = 500 ∨ v = 1000) ∧
    ([0, 99, 100, 499, 500, 999, 1000, 65535].map fun x => (quantize x).ma) = [0, 0, 100, 100, 500, 500, 1000, 1000] ∧
    ∀ cfg : Config, cfg.wf = true →
      threshold cfg = (cfg.detectNone + cfg.detect1A) / 2 ∧ cfg.detectNone ≤ 1023 ∧ cfg.detect1A ≤ 1023

/-! ### The ADC scheduler -/

/-- ADC_ENQUEUE with room in the FIFO (40_adc_scheduler.md R140): the request in the slot at `head`, the converter started
if the FIFO was empty, the answer 0, nothing else. -/
def Obligations.AdcEnqueue : Prop :=
  ∀ (chan : BitVec 4) (avg : BitVec 2) (target : Target) (param : Nat) (s : State), s.Sound → s.Live →
    (s.head + 1) % s.cfg.depth ≠ s.tail → ∃ u : State,
      Accepted ⟨chan, avg, target, param⟩ s u ∧
        exec (.adcEnqueue chan avg target param) s =
          .next { u with returns := s.returns ++ [⟨none, .value 0⟩] }

/-- The ADC commands with room in the FIFO (40_adc_scheduler.md R143, the calls of R144 and R145): ADC_ASYNC_READ queues a
callback request and answers 0; ADC_SYNC_READ and BATTERY_VOLTAGE queue a request of their caller, who then waits. That a
waiting caller is a record at the end of a list is the model's form of the set of 10_state.md R43 (log 13, DESIGN CHOICE). -/
def Obligations.AdcReadCommands : Prop :=
  ∀ s : State, s.Sound → s.Serving → (s.head + 1) % s.cfg.depth ≠ s.tail →
    (∀ (chan : BitVec 4) (avg : BitVec 2) (f : Byte) (param : BitVec 32), ∃ u : State,
        Accepted ⟨chan, avg, .callback f, param.toNat⟩ s u ∧
          exec (.adcAsyncRead chan avg f param) s =
            .next { u with returns := s.returns ++ [⟨none, .value 0⟩] }) ∧
      (∀ (chan : BitVec 4) (avg : BitVec 2) (w : Byte), ∃ u : State,
        Accepted ⟨chan, avg, .sync w, 0⟩ s u ∧
          exec (.adcSyncRead chan avg w) s = .next { u with waiters := s.waiters ++ [⟨w, .adcRead, none⟩] }) ∧
      ∀ w : Byte, ∃ u : State,
        Accepted ⟨s.cfg.battChan, s.cfg.battAvg, .sync w, 0⟩ s u ∧
          exec (.batteryVoltage w) s = .next { u with waiters := s.waiters ++ [⟨w, .battery, none⟩] }

/-- The wake-up of a reader (40_adc_scheduler.md R144, R145): the first caller of that id whose result is there leaves the
set and gets the raw result, or for BATTERY_VOLTAGE the scaled one; where no caller of that id can wake nothing happens
(log 7), and a reader without a result cannot. That equal ids are served in order is the model's (log 13). -/
def Obligations.ReaderWakesWithResult : Prop :=
  ∀ (s : State) (w : Byte) (pre post : List Waiter) (r : BitVec 10),
    (∀ x ∈ pre, x.caller = w → wakeValue s x = none) →
      (s.waiters = pre ++ ⟨w, .adcRead, some r⟩ :: post →
        wakeCaller w s =
          .ret { s with waiters := pre ++ post } (some w) (.value r.toNat)) ∧
        (s.waiters = pre ++ ⟨w, .battery, some r⟩ :: post →
          wakeCaller w s =
            .ret { s with waiters := pre ++ post } (some w)
              (.value (s.cfg.battMvOffset + r.toNat * s.cfg.battMvNum / s.cfg.battMvDen : Nat))) ∧
        (s.waiters = pre → wakeCaller w s = s) ∧
        wakeValue s ⟨w, .adcRead, none⟩ = none ∧ wakeValue s ⟨w, .battery, none⟩ = none

/-- ADC_START (40_adc_scheduler.md R141): the control byte in ADCCTL, the converter on the request's operands, nothing
else; under the layout of 30_encoding.md R105 the byte is `(chan << 4) | (avg << 2) | 1`. -/
def Obligations.AdcStart : Prop :=
  ∀ (r : AdcRequest) (s : State), s.Sound → s.Live → ∃ t : State,
    exec (.adcStart r) s = .next t ∧ t.reg s.cfg.aAdcctl.toNat = adcctlByte s.cfg r.chan r.avg ∧
      SameRegsBut [s.cfg.aAdcctl.toNat] s t ∧ t.adcHw = .converting r.chan r.avg ∧
      t = { s with adcHw := t.adcHw, regs := t.regs } ∧
      (s.cfg.adcctl = ⟨0, 1, 2, 4⟩ →
        t.reg s.cfg.aAdcctl.toNat =
          (r.chan.setWidth 8 <<< 4) ||| (r.avg.setWidth 8 <<< 2) ||| ((0#8 <<< 1) ||| 1#8))

/-- ADC_COMPLETE (40_adc_scheduler.md R142): with an empty FIFO one defect report; else the oldest request leaves its slot,
`adc_done` reports the result the converter's registers hold, a waiting caller gets it, a classification with a current
snapshot sets the policy and a stale one nothing (41_charger_fsm.md R177), and the next pending request is started. That of
several callers of one id the first that waits gets the result is the model's (log 13, DESIGN CHOICE, unsafe for a claim
about two callers of one id). -/
def Obligations.AdcComplete : Prop :=
  ∀ s : State, s.Sound → s.FifoOk → s.Live →
    (s.head = s.tail →
        exec .adcComplete s = .next { s with outputs := s.outputs ++ [.defect .adcReadyEmptyFifo] }) ∧
      (s.head ≠ s.tail → ∃ (r : AdcRequest) (p u t : State),
        s.slot s.tail = some r ∧
          p = { popped s with outputs := s.outputs ++ [.adcDone r.target r.param (resultIn s).toNat] } ∧
          (match r.target with
            | .callback _ => u = p
            | .sync w =>
              u = { p with waiters := u.waiters } ∧
                ((∀ x ∈ s.waiters, x.caller ≠ w) → u.waiters = s.waiters) ∧
                ∀ (pre post : List Waiter) (x : Waiter), s.waiters = pre ++ x :: post →
                  (∀ y ∈ pre, y.caller ≠ w) → x.caller = w → x.result = none →
                  x.waitFor = .adcRead ∨ x.waitFor = .battery →
                    u.waiters = pre ++ { x with result := some (resultIn s) } :: post
            | .classify =>
              if s.usbRemovalCount = r.param then
                PolicySet (typeOf s.cfg (resultIn s).toNat s.flags.usbPresent) p u
              else u = p) ∧
          Restarted u t ∧ exec .adcComplete s = .next t)

/-- EV_ADC_RDY (42_interrupt_dispatcher.md R225): ADC_COMPLETE, then the pass goes on; and it always runs on a FIFO that
keeps 10_state.md R42. -/
def Obligations.AdcReadyEvent : Prop :=
  ∀ s : State, s.FifoOk → s.Live → ∃ t : State,
    exec .adcComplete s = .next t ∧ exec .evAdcRdy s = .next { t with pass := passAfter .adcRdy s }

/-! ### The charger machine -/

/-- CLASSIFY (41_charger_fsm.md R170): a sample below the midpoint is a one-ampere charger whatever the USB flag; else
host-limited with USB and none without; nothing is written but the answer. A negative sample is refused (R170, 93_implementation_defined.md U7); that a
sample above 1023 is refused too is the model's inference from U7 (log 27, DEDUCED). -/
def Obligations.Classify : Prop :=
  ∀ (sample : Int) (usb : Bool) (s : State), s.standbyIssued = false →
    (0 ≤ sample → sample ≤ 1023 →
        ∀ type : ChargerType,
          type = (if sample < (s.cfg.detectNone + s.cfg.detect1A) / 2 then ChargerType.oneAmp
            else if usb then ChargerType.hostLimited else ChargerType.none) →
          exec (.classify sample usb) s = .next { s with returns := s.returns ++ [⟨none, .charger type⟩] }) ∧
      (sample < 0 ∨ 1023 < sample → exec (.classify sample usb) s = .refused .sampleOutsideDomain)

/-- APPLY_POLICY (41_charger_fsm.md R171): the limit of the type is set, the fast-charge ceiling is at its maximum for
every type, the contending GPIO bits are cleared for the one-ampere type only, nothing else changes. -/
def Obligations.ApplyPolicy : Prop :=
  ∀ (type : ChargerType) (s : State), s.Sound → s.Live → ∃ t : State,
    exec (.applyPolicy type) s = .next t ∧ PolicySet type s t

/-- SET_CURRENT_LIMIT (41_charger_fsm.md R172): the largest tier not above the argument in USBLIM, the other bits kept,
charging enabled exactly for 500 and 1000, the handshake, nothing else; `last_curlim` is not written. -/
def Obligations.SetCurrentLimit : Prop :=
  ∀ (ma : Nat) (s : State), s.Sound → s.Live → ∃ t : State,
    exec (.setCurrentLimit ma) s = .next t ∧ LimitSet ma [] s t

/-- CHARGE_ENABLE (41_charger_fsm.md R174): nothing with the feature disabled; else the flag and the bit follow the
operand, every other bit and register stays, and the notification depends on USB; a second call leaves registers and flags
as the first did. -/
def Obligations.ChargeEnable : Prop :=
  ∀ (on : Bool) (s : State), s.Sound → s.Live → ∃ t u : State,
    exec (.chargeEnable on) s = .next t ∧ exec (.chargeEnable on) t = .next u ∧
      (s.cfg.featCharger = false → t = s) ∧
      (s.cfg.featCharger = true →
        t.reg s.cfg.aChgctl.toNat =
            (if on then s.reg s.cfg.aChgctl.toNat ||| s.cfg.chgena
              else s.reg s.cfg.aChgctl.toNat &&& ~~~s.cfg.chgena) ∧
          SameRegsBut [s.cfg.aChgctl.toNat] s t ∧ t.flags = { s.flags with chgEnabled := on } ∧
          t.outputs =
            s.outputs ++
              (if on then if s.flags.usbPresent then [.notify .chargerActive] else []
                else if s.flags.usbPresent = true ∨ s.cfg.chgIdleNotifyNeedsUsb = false then [.notify .chargerIdle]
                  else []) ∧
          t = { s with flags := t.flags, outputs := t.outputs, regs := t.regs }) ∧
      SameRegs t u ∧ u.flags = t.flags

/-- AUTORESUME_HANDSHAKE (41_charger_fsm.md R175) leaves both resume bits set and the rest of CHGCTL as before but for the
auto-resume bit cleared first; BATFULL_DANCE (R180) leaves every register as it was; neither touches anything else. -/
def Obligations.HandshakeAndDance : Prop :=
  ∀ s : State, s.Sound → s.Live →
    (∃ t : State,
        exec .autoresumeHandshake s = .next t ∧
          t.reg s.cfg.aChgctl.toNat =
            ((s.reg s.cfg.aChgctl.toNat &&& ~~~s.cfg.autores) ||| s.cfg.resumeBit) ||| s.cfg.autores ∧
          SameRegsBut [s.cfg.aChgctl.toNat] s t ∧ t = { s with regs := t.regs }) ∧
      ∃ t : State, exec .batfullDance s = .next t ∧ SameRegs s t ∧ t = { s with regs := t.regs }

/-- CLASSIFY_TRIGGER (41_charger_fsm.md R176) queues a classification with the removal counter as its snapshot, or warns
that the FIFO is full; CLASSIFY_DONE (R177) with a stale snapshot does nothing, with the current one classifies the result
and applies the policy. The model's inferences, DEDUCED: on the full FIFO the defect is reported before the warning (log
29), and with the current snapshot a result outside 0..1023 is refused (log 27). -/
def Obligations.ClassifyTriggerAndDone : Prop :=
  ∀ s : State, s.Sound → s.Live →
    (∃ t : State, exec .classifyTrigger s = .next t ∧ Triggered s t) ∧
      ∀ (snapshot : Nat) (result : Int),
        (s.usbRemovalCount ≠ snapshot → exec (.classifyDone snapshot result) s = .next s) ∧
          (s.usbRemovalCount = snapshot → 0 ≤ result → result ≤ 1023 → ∃ t : State,
            exec (.classifyDone snapshot result) s = .next t ∧
              PolicySet (typeOf s.cfg result.toNat s.flags.usbPresent) s t) ∧
          (s.usbRemovalCount = snapshot → result < 0 ∨ 1023 < result →
            exec (.classifyDone snapshot result) s = .refused .sampleOutsideDomain)

/-- The USB-limit notifier (41_charger_fsm.md R178, R179): NOTIFY_USB_CURLIM records the budget and the snapshot and
schedules the task, in every suspend state; CURLIM_TASK, if scheduled, drops the request unless the block is running and
the snapshot current, and then records the budget and sets the limit. -/
def Obligations.UsbCurlimNotifier : Prop :=
  ∀ s : State, s.Sound → s.standbyIssued = false → s.probed = true →
    (∀ ma : BitVec 16,
        exec (.notifyUsbCurlim ma) s = .next
          { s with
            curlim := { s.curlim with pendingMa := ma.toNat, snapshot := s.usbRemovalCount, scheduled := true }
            returns := s.returns ++ [⟨none, .value 0⟩] }) ∧
      (s.curlim.scheduled = true → s.curlim.task = .idle →
        (s.suspend ≠ .running ∨ s.usbRemovalCount ≠ s.curlim.snapshot →
            exec .curlimTask s = .next { s with curlim := { s.curlim with scheduled := false } }) ∧
          (s.suspend = .running → s.usbRemovalCount = s.curlim.snapshot → ∃ t : State,
            exec .curlimTask s = .next t ∧
              LimitSet s.curlim.pendingMa []
                { s with curlim := { s.curlim with scheduled := false }, lastCurlim := s.curlim.pendingMa } t))

/-! ### The Dispatcher -/

/-- ENTRY (42_interrupt_dispatcher.md R201, R202): with a credit and an idle Dispatcher the pass starts in `running` and
`completed_resume`; in the three other states nothing at all changes and the credit stays. That the pass starts with its
cold-plug mark false is the model's (log 17, DESIGN CHOICE, unsafe for a claim about the mark before STEP5). -/
def Obligations.DispatchEntry : Prop :=
  ∀ s : State, s.standbyIssued = false → s.probed = true → s.disp = .idle →
    (s.suspend = .startingSuspend ∨ s.suspend = .completedSuspend ∨ s.suspend = .startingResume →
        exec .dispatch s = .next s) ∧
      (s.dispatchReq = true → s.suspend = .running ∨ s.suspend = .completedResume →
        exec .dispatch s = .next
          { s with dispatchReq := false, disp := .running, pass := some ⟨0, .read, false⟩ })

/-- READ (42_interrupt_dispatcher.md R203): five bytes become the block, byte 0 lowest, the five status registers are
cleared in the same step and no edge counts as seen; a short read ends the pass, sets the credit and clears nothing unless
SHORT_READ_CLEARS says so (20_memory.md R74, log 16 for the line then). -/
def Obligations.DispatchRead : Prop :=
  ∀ (s : State) (p : Pass), s.Sound → s.Live → s.disp ≠ .idle → s.pass = some p → p.next = .read →
    (s.draws.shortRead = none → ∃ t : State,
        exec .dispatch s = .next t ∧
          t.pass = some
            { p with
              block := s.reg (s.intAt 4) ++ s.reg (s.intAt 3) ++ s.reg (s.intAt 2) ++ s.reg (s.intAt 1) ++
                s.reg (s.intAt 0)
              next := .step4 } ∧
          (∀ i < 5, t.reg (s.intAt i) = 0) ∧ SameRegsBut ((List.range 5).map s.intAt) s t ∧ t.irqSeen = false ∧
          t.irqLine = false ∧ t = { s with pass := t.pass, regs := t.regs, irqSeen := t.irqSeen }) ∧
      ∀ k : Fin 5, s.draws.shortRead = some k →
        (s.cfg.shortReadClears = false →
            exec .dispatch s = .next { s with dispatchReq := true, disp := .idle, pass := none }) ∧
          (s.cfg.shortReadClears = true → ∃ t : State,
            exec .dispatch s = .next t ∧
              (∀ i < 5, t.reg (s.intAt i) = if i < k.val then 0 else s.reg (s.intAt i)) ∧
              SameRegsBut ((List.range 5).map s.intAt) s t ∧
              t.irqSeen = (if k = 0 then s.irqSeen else s.irqSeen && t.irqLine) ∧
              t = { s with dispatchReq := true, disp := .idle, pass := none, regs := t.regs, irqSeen := t.irqSeen })

/-- STEP4 (42_interrupt_dispatcher.md R204): after a resume the block is kept for diagnostics, the state becomes `running`,
and key events are suppressed if at least one on-key bit and no other bit is set; else nothing but the position changes. -/
def Obligations.DispatchStep4 : Prop :=
  ∀ (s : State) (p : Pass), s.Live → s.disp ≠ .idle → s.pass = some p → p.next = .step4 →
    (s.suspend = .running → exec .dispatch s = .next { s with pass := some { p with next := .step5 } }) ∧
      (s.suspend = .completedResume →
        exec .dispatch s = .next
          { s with
            resumeSnapshot :=
              ⟨p.block.extractLsb' 0 8, p.block.extractLsb' 8 8, p.block.extractLsb' 16 8, p.block.extractLsb' 24 8,
                p.block.extractLsb' 32 8⟩
            suspend := .running
            suppressOnkey :=
              if p.block ≠ 0 ∧
                  p.block &&&
                    ~~~(s.cfg.eventMask .onkeyF ||| s.cfg.eventMask .onkeyR ||| s.cfg.eventMask .onkey1s) = 0
              then true else s.suppressOnkey
            pass := some { p with next := .step5 } })

/-- STEP5 (42_interrupt_dispatcher.md R205): once, the cold-plug: the tick masked, each source that is present reported and
flagged, absent ones left alone, the classification read asked for; always the first event next. The model's own: that the
pass remembers it was the cold-plug pass (log 17, DESIGN CHOICE, unsafe), that a full FIFO reports the defect before the
warning (log 29, DEDUCED, unsafe; `Triggered`), and that `irq_seen` is cleared in the step whose mask write makes the line
fall (42_interrupt_dispatcher.md R235; log 16, DEDUCED). -/
def Obligations.DispatchStep5 : Prop :=
  ∀ (s : State) (p : Pass), s.Sound → s.Live → s.disp ≠ .idle → s.pass = some p → p.next = .step5 →
    (s.coldplugDone = true →
        exec .dispatch s = .next
          { s with pass := some { p with next := nextMicroStep s.cfg p.block Event.order } }) ∧
      (s.coldplugDone = false → ∃ m u : State,
        m.reg s.tickMaskAt = s.reg s.tickMaskAt ||| s.tickBit ∧ SameRegsBut [s.tickMaskAt] s m ∧
          m.flags =
            { s.flags with
              usbPresent := s.usbOk || s.flags.usbPresent
              chgPresent := s.chgOk || s.flags.chgPresent } ∧
          m.outputs =
            s.outputs ++ (if s.usbOk then [.notify .usbInsert] else []) ++
              (if s.chgOk then [.notify .chargerInsert, .inputPower true] else []) ++
              (if s.usbOk || s.chgOk then [.platform .statusChanged] else []) ∧
          m.irqSeen = (s.irqSeen && m.irqLine) ∧
          m = { s with flags := m.flags, outputs := m.outputs, regs := m.regs, irqSeen := m.irqSeen } ∧
          Triggered m u ∧
          exec .dispatch s = .next
            { u with
              coldplugDone := true
              pass := some { p with next := nextMicroStep s.cfg p.block Event.order, coldPlug := true } })

/-- The Dispatcher's turn at an event is that event's operation (42_interrupt_dispatcher.md R206); EXIT (R207) flushes the
reports, turns a coalesced request into a credit (R208), and ends the pass. -/
def Obligations.DispatchEventsAndExit : Prop :=
  ∀ (s : State) (p : Pass), s.Live → s.disp ≠ .idle → s.pass = some p →
    (∀ e : Event, p.next = .event e → exec .dispatch s = exec e.instr s) ∧
      (p.next = .usbInsB → exec .dispatch s = exec .evUsbIns s) ∧
      (p.next = .exit →
        exec .dispatch s = .next
          { s with
            outputs := s.outputs ++ [.inputFlush]
            dispatchReq := if s.disp = .runningResched then true else s.dispatchReq
            disp := .idle
            pass := none })

/-! ### The events -/

/-- Charger insertion and removal (42_interrupt_dispatcher.md R210, R211) and the charger-state events (R220 to R224): the
flag the rule names, the reports in the rule's order, the pass goes on, nothing else. -/
def Obligations.ChargerEvents : Prop :=
  ∀ s : State, s.Live →
    exec .evChgIns s = .next
        { s with
          flags := { s.flags with chgPresent := true }
          outputs := s.outputs ++ [.notify .chargerInsert, .inputPower true, .platform .statusChanged]
          pass := passAfter .chgIns s } ∧
      exec .evChgRem s = .next
        { s with
          flags := { s.flags with chgPresent := false }
          outputs := s.outputs ++ [.notify .chargerRemove, .inputPower false, .platform .statusChanged]
          pass := passAfter .chgRem s } ∧
      exec .evChghalt s = .next
        { s with outputs := s.outputs ++ [.notify .chargerChange], pass := passAfter .chghalt s } ∧
      exec .evThlimOn s = .next
        { s with
          flags := { s.flags with chgProt := true }
          outputs := s.outputs ++ [.notify .chargerChange]
          pass := passAfter .thlimOn s } ∧
      exec .evThlimOff s = .next
        { s with
          flags := { s.flags with chgProt := false }
          outputs := s.outputs ++ [.notify .chargerChange]
          pass := passAfter .thlimOff s } ∧
      exec .evUsblimOn s = .next
        { s with outputs := s.outputs ++ [.notify .chargerChange], pass := passAfter .usblimOn s } ∧
      exec .evUsblimOff s = .next
        { s with outputs := s.outputs ++ [.notify .chargerChange], pass := passAfter .usblimOff s }

/-- EV_USB_INS (42_interrupt_dispatcher.md R212): part (a) sets the flag and reports, and the pass waits for part (b);
part (b) asks for the classification read and the pass goes on. EV_USB_REM (R213): nothing where EV_USB_INS is in the same
block; else the counter rises by one (`Config.countAfter`: past a finite COUNTER_BITS, which only log 22 allows, it wraps),
the flag and the negotiated limit are cleared, the removal is reported, and a classification with the new count is asked
for. That a full FIFO then reports the defect before the warning is the model's inference (log 29, DEDUCED, unsafe;
`Triggered`). -/
def Obligations.UsbEvents : Prop :=
  ∀ s : State, s.Sound → s.Live →
    (s.atUsbInsB = false →
        exec .evUsbIns s = .next
          { s with
            flags := { s.flags with usbPresent := true }
            outputs := s.outputs ++ [.notify .usbInsert, .platform .statusChanged]
            pass := s.pass.map fun p => { p with next := .usbInsB } }) ∧
      (s.atUsbInsB = true → ∃ u : State,
        Triggered s u ∧ exec .evUsbIns s = .next { u with pass := passAfter .usbIns s }) ∧
      (s.passHas .usbIns = true → exec .evUsbRem s = .next { s with pass := passAfter .usbRem s }) ∧
      (s.passHas .usbIns = false → ∃ u : State,
        Triggered
            { s with
              usbRemovalCount := s.cfg.countAfter s.usbRemovalCount
              flags := { s.flags with usbPresent := false }
              lastCurlim := 0
              outputs := s.outputs ++ [.notify .usbRemove, .platform .statusChanged] } u ∧
          exec .evUsbRem s = .next { u with pass := passAfter .usbRem s })

/-- EV_ALARM (42_interrupt_dispatcher.md R214) forwards to the RTC if that feature is enabled. EV_TICK (R215) does so too,
and while the key is held counts one second: at the first threshold it asks for a shutdown, at the second it writes the
standby command. -/
def Obligations.AlarmAndTick : Prop :=
  ∀ s : State, s.Sound → s.Live →
    exec .evAlarm s = .next
        { s with
          outputs := s.outputs ++ (if s.cfg.featRtc then [.rtc .alarm] else [])
          pass := passAfter .alarm s } ∧
      (s.onkeySeconds < 0 ∨ s.onkeyPressed = false →
        exec .evTick s = .next
          { s with
            outputs := s.outputs ++ (if s.cfg.featRtc then [.rtc .secondTick] else [])
            pass := passAfter .tick s }) ∧
      (0 ≤ s.onkeySeconds → s.onkeyPressed = true → ∃ t : State,
        exec .evTick s = .next t ∧ t.onkeySeconds = s.onkeySeconds + 1 ∧
          t.outputs =
            s.outputs ++ (if s.cfg.featRtc then [.rtc .secondTick] else []) ++
              (if s.onkeySeconds + 1 = s.cfg.onkeySigInit then [.shutdownRequest] else []) ∧
          (s.onkeySeconds + 1 ≠ s.cfg.onkeyShutdown → t.standbyIssued = false ∧ t.regs = s.regs) ∧
          (s.onkeySeconds + 1 = s.cfg.onkeyShutdown →
            t.standbyIssued = true ∧ t.reg s.cfg.aStandby.toNat = s.reg s.cfg.aStandby.toNat ||| s.cfg.standbyCmd ∧
              SameRegsBut [s.cfg.aStandby.toNat] s t) ∧
          t = { s with
            onkeySeconds := t.onkeySeconds, outputs := t.outputs, standbyIssued := t.standbyIssued,
            regs := t.regs, pass := passAfter .tick s })

/-- The on-key events (42_interrupt_dispatcher.md R216 to R218): the pressed flag, the held counter, the reports unless
suppressed, the suppression cleared by the key-up it hides, the tick masked at key-up unless the RTC wants it and unmasked
once the key is held. That `irq_seen` follows the line in the two steps that write the tick's mask is the model's reading
of R235 (log 16, DEDUCED). -/
def Obligations.OnkeyEvents : Prop :=
  ∀ s : State, s.Sound → s.Live →
    exec .evOnkeyF s = .next
        { s with
          onkeyPressed := true
          outputs := s.outputs ++ (if s.suppressOnkey then [] else [.inputKey true])
          pass := passAfter .onkeyF s } ∧
      (∃ t : State,
        exec .evOnkeyR s = .next t ∧
          (s.rtcWantsTick = true → t.regs = s.regs ∧ t.irqSeen = s.irqSeen) ∧
          (s.rtcWantsTick = false →
            t.reg s.tickMaskAt = s.reg s.tickMaskAt ||| s.tickBit ∧ SameRegsBut [s.tickMaskAt] s t ∧
              t.irqSeen = (s.irqSeen && t.irqLine)) ∧
          t = { s with
            onkeyPressed := false, onkeySeconds := -1, suppressOnkey := false,
            outputs := s.outputs ++ (if s.suppressOnkey then [] else [.inputKey false]),
            regs := t.regs, irqSeen := t.irqSeen, pass := passAfter .onkeyR s }) ∧
      ∃ t : State,
        exec .evOnkey1s s = .next t ∧ t.reg s.tickMaskAt = s.reg s.tickMaskAt &&& ~~~s.tickBit ∧
          SameRegsBut [s.tickMaskAt] s t ∧ t.irqSeen = (s.irqSeen && t.irqLine) ∧
          t = { s with
            onkeySeconds := 0, regs := t.regs, irqSeen := t.irqSeen, pass := passAfter .onkey1s s }

/-- EV_BATFULL (42_interrupt_dispatcher.md R219): less than the grace window after a battery insertion no report and every
register as before; else the idle notification. -/
def Obligations.BatfullEvent : Prop :=
  ∀ s : State, s.Sound → s.Live →
    (∀ t₀ : Nat, s.lastBatInsert = some t₀ → (s.now : Int) - t₀ < s.cfg.batfullGrace → ∃ t : State,
        exec .evBatfull s = .next t ∧ SameRegs s t ∧
          t = { s with regs := t.regs, pass := passAfter .batfull s }) ∧
      ((∀ t₀ : Nat, s.lastBatInsert = some t₀ → s.cfg.batfullGrace ≤ (s.now : Int) - t₀) →
        exec .evBatfull s = .next
          { s with outputs := s.outputs ++ [.notify .chargerIdle], pass := passAfter .batfull s })

/-- EV_LOWBAT and EV_LOWSYS, one rule (42_interrupt_dispatcher.md R226): with external power the idle notification, the
handshake, and the poller started unless it runs; without it the platform is told, by the drawn answer of its query.
EV_HIGHTEMP (R227): the critical event. -/
def Obligations.LowPowerEvents : Prop :=
  ∀ s : State, s.Sound → s.Live →
    (∀ (i : Instr) (e : Event), (i = .evLowbat ∧ e = .lowbat) ∨ (i = .evLowsys ∧ e = .lowsys) →
        (s.usbOk = true ∨ s.chgOk = true → ∃ t : State,
          exec i s = .next t ∧ t.reg s.cfg.aChgctl.toNat = handshakeByte s.cfg (s.reg s.cfg.aChgctl.toNat) ∧
            SameRegsBut [s.cfg.aChgctl.toNat] s t ∧
            t = { s with
              outputs := s.outputs ++ [.notify .chargerIdle],
              nobat := if s.nobat.running then s.nobat else ⟨true, s.usbRemovalCount⟩,
              regs := t.regs, pass := passAfter e s }) ∧
          (s.usbOk = false → s.chgOk = false →
            exec i s = .next
              { s with
                outputs :=
                  s.outputs ++ [.platform (if s.draws.reachable then .lowBattery else .criticalSuspend)]
                pass := passAfter e s })) ∧
      exec .evHightemp s = .next
        { s with outputs := s.outputs ++ [.platform .criticalSuspend], pass := passAfter .hightemp s }

/-- The hardware fault bits (42_interrupt_dispatcher.md R228 to R231, 60_exceptions.md R304): one warning each, and nothing
else but the pass goes on. -/
def Obligations.FaultBitEvents : Prop :=
  ∀ s : State, s.Live →
    (∀ p ∈ [(Instr.evAutopwrfail, Event.autopwrfail, WarnKind.autoPowerFail),
        (.evSubregFail0, .subregFail 0, .subregFail 0), (.evSubregFail1, .subregFail 1, .subregFail 1),
        (.evSubregFail2, .subregFail 2, .subregFail 2), (.evSubregFail3, .subregFail 3, .subregFail 3),
        (.evSubregFail4, .subregFail 4, .subregFail 4), (.evSubregFail5, .subregFail 5, .subregFail 5),
        (.evSubregFail6, .subregFail 6, .subregFail 6), (.evSubregFail7, .subregFail 7, .subregFail 7),
        (.evSubregFail8, .subregFail 8, .subregFail 8), (.evSubregFail9, .subregFail 9, .subregFail 9),
        (.evLedFail, .ledFail, .ledFail), (.evLedOvp, .ledOvp, .ledOvp)],
      exec p.1 s = .next { s with outputs := s.outputs ++ [.warn p.2.2], pass := passAfter p.2.1 s })

/-! ### Registers, readiness, power -/

/-- READ_REGISTER_BLOCK (43_suspend_and_tasks.md R268, 20_memory.md R71, R77): the bytes of the registers in ascending
order, the status registers among them cleared, no other register changed. That `irq_seen` follows the line then is the
model's (log 16). -/
def Obligations.ReadRegisterBlock : Prop :=
  ∀ (reg count : Byte) (s : State), s.Sound → s.Serving → s.draws.busError = false → count ≠ 0 →
    reg.toNat + count.toNat ≤ 256 → ∃ t : State,
      exec (.readRegisterBlock reg count) s = .next t ∧
        t.returns = s.returns ++ [⟨none, .bytes ((List.range count.toNat).map fun j => s.reg (reg.toNat + j))⟩] ∧
        (∀ a, t.reg a =
          if InBlock reg.toNat count.toNat a ∧ InBlock s.cfg.aInt.toNat 5 a then 0 else s.reg a) ∧
        t.irqSeen = (if s.touchesLine reg.toNat count.toNat then s.irqSeen && t.irqLine else s.irqSeen) ∧
        t = { s with regs := t.regs, irqSeen := t.irqSeen, returns := t.returns }

/-- WRITE_REGISTER_BLOCK (43_suspend_and_tasks.md R269, 20_memory.md R72, R77): each register of the block that is not
read-only takes its byte, no register outside changes, a start bit written to ADCCTL restarts the converter, the standby
command written to STANDBY powers down, the answer is 0. The model's reading, DEDUCED: that a byte with all the bits of
STANDBY_CMD powers down and any start bit restarts (log 14, unsafe), and that `irq_seen` follows the line after a write to
INT or INTM (42_interrupt_dispatcher.md R235; log 16). -/
def Obligations.WriteRegisterBlock : Prop :=
  ∀ (reg count : Byte) (data : List Byte) (s : State), s.Sound → s.Serving → s.draws.busError = false → count ≠ 0 →
    reg.toNat + count.toNat ≤ 256 → data.length = count.toNat → ∃ t : State,
      let at_ := fun a => data.getD (a - reg.toNat) 0
      let ctl := s.cfg.aAdcctl.toNat
      let sby := s.cfg.aStandby.toNat
      exec (.writeRegisterBlock reg count data) s = .next t ∧
        (∀ a, InBlock reg.toNat count.toNat a → s.readOnly a = false → t.reg a = at_ a) ∧
        (∀ a, ¬InBlock reg.toNat count.toNat a → t.reg a = s.reg a) ∧
        t.adcHw = (if InBlock reg.toNat count.toNat ctl ∧ adcctlStarts s.cfg (at_ ctl) = true then
          .converting (adcctlChan s.cfg (at_ ctl)) (adcctlAvg s.cfg (at_ ctl)) else s.adcHw) ∧
        t.standbyIssued = decide (InBlock reg.toNat count.toNat sby ∧ allSet (at_ sby) s.cfg.standbyCmd = true) ∧
        t.irqSeen = (if s.touchesLine reg.toNat count.toNat then s.irqSeen && t.irqLine else s.irqSeen) ∧
        t.returns = s.returns ++ [⟨none, .value 0⟩] ∧
        t = { s with regs := t.regs, adcHw := t.adcHw, standbyIssued := t.standbyIssued, irqSeen := t.irqSeen,
                     returns := t.returns }

/-- SET_BITS and CLEAR_BITS (43_suspend_and_tasks.md R270, R271): one read-modify-write of the register, with the effects
of a write to it, the answer 0, nothing else. The effects of a host's write are the model's reading, DEDUCED: a byte with
all the bits of STANDBY_CMD powers down and any start bit restarts the converter (log 14), and `irq_seen` follows the line
(log 16). -/
def Obligations.SetAndClearBits : Prop :=
  ∀ (reg mask : Byte) (s : State), s.Sound → s.Serving → s.draws.busError = false →
    (∃ t : State, exec (.setBits reg mask) s = .next t ∧ HostStored reg.toNat (s.reg reg.toNat ||| mask) s t) ∧
      ∃ t : State, exec (.clearBits reg mask) s = .next t ∧ HostStored reg.toNat (s.reg reg.toNat &&& ~~~mask) s t

/-- READY (43_suspend_and_tasks.md R265): whether the device is past PROBE and in `running` or `completed_resume`; never an
error, nothing else changes. -/
def Obligations.Ready : Prop :=
  ∀ s : State, s.standbyIssued = false →
    exec .ready s = .next
      { s with
        returns := s.returns ++
          [⟨none, .bool (s.probed && (s.suspend == .running || s.suspend == .completedResume))⟩] }

/-- WAIT_UNTIL_READY (43_suspend_and_tasks.md R266): 0 at once if ready, else the caller waits; its wake-up answers 0 if
ready, also past the deadline, and E_TIMEOUT at or past the deadline. The model's own, DESIGN CHOICE: that the first of
equal ids wakes (log 13), and that a wake-up not yet enabled leaves the state as it was (log 7). -/
def Obligations.WaitUntilReady : Prop :=
  (∀ (timeout : BitVec 16) (w : Byte) (s : State), s.standbyIssued = false →
      (s.isReady = true →
        exec (.waitUntilReady timeout w) s = .next { s with returns := s.returns ++ [⟨some w, .value 0⟩] }) ∧
        (s.isReady = false →
          exec (.waitUntilReady timeout w) s = .next
            { s with waiters := s.waiters ++ [⟨w, .ready (s.now + timeout.toNat), none⟩] })) ∧
    ∀ (s : State) (w : Byte) (deadline : Nat) (pre post : List Waiter),
      s.waiters = pre ++ ⟨w, .ready deadline, none⟩ :: post → (∀ x ∈ pre, x.caller ≠ w) →
        (s.isReady = true →
            wakeCaller w s =
              { s with waiters := pre ++ post, returns := s.returns ++ [⟨some w, .value 0⟩] }) ∧
          (s.isReady = false → deadline ≤ s.now →
            wakeCaller w s =
              { s with waiters := pre ++ post, returns := s.returns ++ [⟨some w, .error .timeout⟩] }) ∧
          (s.isReady = false → s.now < deadline → (∀ x ∈ post, x.caller ≠ w) → wakeCaller w s = s)

/-- GO_STANDBY (43_suspend_and_tasks.md R267): the command's bits set in STANDBY, the device marked as powered off, the
answer 0, nothing else. -/
def Obligations.GoStandby : Prop :=
  ∀ s : State, s.Sound → s.Serving → ∃ t : State,
    exec .goStandby s = .next t ∧
      t.reg s.cfg.aStandby.toNat = s.reg s.cfg.aStandby.toNat ||| s.cfg.standbyCmd ∧
      SameRegsBut [s.cfg.aStandby.toNat] s t ∧
      t = { s with regs := t.regs, standbyIssued := true, returns := s.returns ++ [⟨none, .value 0⟩] }

/-- SUSPEND (43_suspend_and_tasks.md R260): S1 from `running` with an idle Dispatcher changes the state only; S2 saves the
five masks, leaves exactly the resumers unmasked, disables delivery, answers 0. That `irq_seen` follows the line in the
step that writes the masks is the model's reading of R235 (log 16, DEDUCED). -/
def Obligations.SuspendTransitions : Prop :=
  ∀ s : State, s.Sound →
    (s.standbyIssued = false → s.probed = true → s.suspend = .running → s.disp = .idle →
        exec .suspend s = .next { s with suspend := .startingSuspend }) ∧
      (s.suspend = .startingSuspend →
        let t := coordinatorFinish s
        t.savedMask =
            ⟨s.reg (s.intmAt 0), s.reg (s.intmAt 1), s.reg (s.intmAt 2), s.reg (s.intmAt 3), s.reg (s.intmAt 4)⟩ ∧
          t.reg (s.intmAt 0) = ~~~s.cfg.resumers.b0 ∧ t.reg (s.intmAt 1) = ~~~s.cfg.resumers.b1 ∧
          t.reg (s.intmAt 2) = ~~~s.cfg.resumers.b2 ∧ t.reg (s.intmAt 3) = ~~~s.cfg.resumers.b3 ∧
          t.reg (s.intmAt 4) = ~~~s.cfg.resumers.b4 ∧ SameRegsBut ((List.range 5).map s.intmAt) s t ∧
          t.irqSeen = (s.irqSeen && t.irqLine) ∧
          t = { s with
            savedMask := t.savedMask, regs := t.regs, irqSeen := t.irqSeen, irqDelivery := false,
            suspend := .completedSuspend, returns := s.returns ++ [⟨none, .value 0⟩] })

/-- RESUME (43_suspend_and_tasks.md R261): R1 from `completed_suspend` changes the state only; R2 restores the saved masks,
masks the tick, enables delivery, asks for a pass, answers 0. That `irq_seen` follows the line in the step that writes the
masks is the model's reading of 42_interrupt_dispatcher.md R235 (log 16, DEDUCED). -/
def Obligations.ResumeTransitions : Prop :=
  ∀ s : State, s.Sound →
    (s.standbyIssued = false → s.probed = true → s.suspend = .completedSuspend →
        exec .resume s = .next { s with suspend := .startingResume }) ∧
      (s.suspend = .startingResume → s.disp = .idle →
        let t := coordinatorFinish s
        let it := (s.cfg.pos .tick).byte.val
        (∀ i < 5, t.reg (s.intmAt i) =
            [s.savedMask.b0, s.savedMask.b1, s.savedMask.b2, s.savedMask.b3, s.savedMask.b4].getD i 0 |||
              (if i = it then s.tickBit else 0)) ∧
          SameRegsBut ((List.range 5).map s.intmAt) s t ∧ t.irqSeen = (s.irqSeen && t.irqLine) ∧
          t = { s with
            regs := t.regs, irqSeen := t.irqSeen, irqDelivery := true, suspend := .completedResume,
            dispatchReq := true, returns := s.returns ++ [⟨none, .value 0⟩] })

/-- The no-battery poller (43_suspend_and_tasks.md R263, R264): a start while it runs changes nothing; a cycle is skipped
unless the block is running, records an inserted battery, asks for a classification and stops, or stops if USB was removed
since the start, or goes on. That a full FIFO then reports the defect before the warning is the model's inference (log 29,
DEDUCED, unsafe; `Triggered`). -/
def Obligations.NobatPoller : Prop :=
  ∀ s : State, s.Sound →
    (s.Live →
        exec .nobatStart s =
          .next { s with nobat := if s.nobat.running then s.nobat else ⟨true, s.usbRemovalCount⟩ }) ∧
      (s.standbyIssued = false → s.probed = true →
        (s.nobat.running = true → s.suspend ≠ .running → exec .nobatPoll s = .next s) ∧
          (s.nobat.running = true → s.suspend = .running →
            (s.reg s.cfg.aBatstat.toNat &&& s.cfg.batPresentMask ≠ 0 → ∃ u : State,
                Triggered { s with lastBatInsert := some s.now } u ∧
                  exec .nobatPoll s = .next { u with nobat := ⟨false, s.nobat.snapshot⟩ }) ∧
              (s.reg s.cfg.aBatstat.toNat &&& s.cfg.batPresentMask = 0 →
                exec .nobatPoll s =
                  .next { s with nobat := ⟨s.usbRemovalCount == s.nobat.snapshot, s.nobat.snapshot⟩ })))

/-! ### The environment -/

/-- The PMU's inputs that change registers: PMU_RAISE latches one status bit (42_interrupt_dispatcher.md R234);
ENV_SET_STATUS sets PWRSTAT or BATSTAT (R233); ADC_HW_DONE (40_adc_scheduler.md R146) stores the value, with some byte in
the bits outside LO_MASK, latches ADC-ready and idles the converter. With
LO_MASK = 3 the result then read (30_encoding.md R106) is the value. -/
def Obligations.PmuInputs : Prop :=
  ∀ s : State, s.Sound → s.standbyIssued = false →
    (∀ (i : Fin 5) (b : Fin 8), ∃ t : State,
        exec (.pmuRaise i b) s = .next t ∧ t.reg (s.intAt i.val) = s.reg (s.intAt i.val) ||| (1#8 <<< b.val) ∧
          SameRegsBut [s.intAt i.val] s t ∧ t = { s with regs := t.regs }) ∧
      (∀ v : Byte, ∃ t : State,
        exec (.envSetStatus .pwrstat v) s = .next t ∧ t.reg s.cfg.aPwrstat.toNat = v ∧
          SameRegsBut [s.cfg.aPwrstat.toNat] s t ∧ t = { s with regs := t.regs }) ∧
      (∀ v : Byte, ∃ t : State,
        exec (.envSetStatus .batstat v) s = .next t ∧ t.reg s.cfg.aBatstat.toNat = v ∧
          SameRegsBut [s.cfg.aBatstat.toNat] s t ∧ t = { s with regs := t.regs }) ∧
      ∀ (value : BitVec 10) (chan : BitVec 4) (avg : BitVec 2), s.adcHw = .converting chan avg → ∃ t : State,
        let hi := s.cfg.aAdcresHi.toNat
        let lo := s.cfg.aAdcresLo.toNat
        let rdy := s.intAt (s.cfg.pos .adcRdy).byte.val
        exec (.adcHwDone value) s = .next t ∧ t.reg hi = value.extractLsb' 2 8 ∧
          (∃ junk : Byte, t.reg lo = (junk &&& ~~~s.cfg.loMask) ||| (value.extractLsb' 0 2).setWidth 8) ∧
          t.reg rdy = s.reg rdy ||| (1#8 <<< (s.cfg.pos .adcRdy).bit.val) ∧ SameRegsBut [hi, lo, rdy] s t ∧
          t = { s with adcHw := .idle, regs := t.regs } ∧ (s.cfg.loMask = 3 → resultIn t = value)

/-- IRQ_EDGE (42_interrupt_dispatcher.md R235, R208): with delivery on, the line high, no edge seen yet and the device past
PROBE, the edge is seen and a pass asked for, coalesced if one runs. ENV_RTC_WANT (R236) records the
RTC's wish and touches no register. -/
def Obligations.EdgeAndRtcInputs : Prop :=
  ∀ s : State, s.standbyIssued = false →
    (s.irqDelivery = true → s.irqLine = true → s.irqSeen = false → s.probed = true →
        exec .irqEdge s = .next
          { s with
            irqSeen := true
            dispatchReq := if s.disp = .idle then true else s.dispatchReq
            disp := if s.disp = .idle then .idle else .runningResched }) ∧
      ∀ b : Bool, exec (.envRtcWant b) s = .next { s with rtcWantsTick := b }
end

