-- ==== Sys2Proof/Laws/State.lean ====
section
/-! SUPPORT. The small lemmas of the state's named updates: each field after each update, so that no later proof unfolds a
record update. -/

namespace Sys2Proof.Machine

variable (s : State)

/-! ### `emit` -/

@[simp] theorem State.emit_cfg (o : Output) : (s.emit o).cfg = s.cfg := rfl
@[simp] theorem State.emit_suspend (o : Output) : (s.emit o).suspend = s.suspend := rfl
@[simp] theorem State.emit_flags (o : Output) : (s.emit o).flags = s.flags := rfl
@[simp] theorem State.emit_lastCurlim (o : Output) : (s.emit o).lastCurlim = s.lastCurlim := rfl
@[simp] theorem State.emit_usbRemovalCount (o : Output) : (s.emit o).usbRemovalCount = s.usbRemovalCount := rfl
@[simp] theorem State.emit_coldplugDone (o : Output) : (s.emit o).coldplugDone = s.coldplugDone := rfl
@[simp] theorem State.emit_onkeySeconds (o : Output) : (s.emit o).onkeySeconds = s.onkeySeconds := rfl
@[simp] theorem State.emit_resumeSnapshot (o : Output) : (s.emit o).resumeSnapshot = s.resumeSnapshot := rfl
@[simp] theorem State.emit_onkeyPressed (o : Output) : (s.emit o).onkeyPressed = s.onkeyPressed := rfl
@[simp] theorem State.emit_suppressOnkey (o : Output) : (s.emit o).suppressOnkey = s.suppressOnkey := rfl
@[simp] theorem State.emit_lastBatInsert (o : Output) : (s.emit o).lastBatInsert = s.lastBatInsert := rfl
@[simp] theorem State.emit_rtcWantsTick (o : Output) : (s.emit o).rtcWantsTick = s.rtcWantsTick := rfl
@[simp] theorem State.emit_savedMask (o : Output) : (s.emit o).savedMask = s.savedMask := rfl
@[simp] theorem State.emit_probed (o : Output) : (s.emit o).probed = s.probed := rfl
@[simp] theorem State.emit_standbyIssued (o : Output) : (s.emit o).standbyIssued = s.standbyIssued := rfl
@[simp] theorem State.emit_irqDelivery (o : Output) : (s.emit o).irqDelivery = s.irqDelivery := rfl
@[simp] theorem State.emit_disp (o : Output) : (s.emit o).disp = s.disp := rfl
@[simp] theorem State.emit_dispatchReq (o : Output) : (s.emit o).dispatchReq = s.dispatchReq := rfl
@[simp] theorem State.emit_pass (o : Output) : (s.emit o).pass = s.pass := rfl
@[simp] theorem State.emit_nobat (o : Output) : (s.emit o).nobat = s.nobat := rfl
@[simp] theorem State.emit_curlim (o : Output) : (s.emit o).curlim = s.curlim := rfl
@[simp] theorem State.emit_slots (o : Output) : (s.emit o).slots = s.slots := rfl
@[simp] theorem State.emit_head (o : Output) : (s.emit o).head = s.head := rfl
@[simp] theorem State.emit_tail (o : Output) : (s.emit o).tail = s.tail := rfl
@[simp] theorem State.emit_waiters (o : Output) : (s.emit o).waiters = s.waiters := rfl
@[simp] theorem State.emit_adcHw (o : Output) : (s.emit o).adcHw = s.adcHw := rfl
@[simp] theorem State.emit_irqSeen (o : Output) : (s.emit o).irqSeen = s.irqSeen := rfl
@[simp] theorem State.emit_regs (o : Output) : (s.emit o).regs = s.regs := rfl
@[simp] theorem State.emit_outputs (o : Output) : (s.emit o).outputs = s.outputs ++ [o] := rfl
@[simp] theorem State.emit_returns (o : Output) : (s.emit o).returns = s.returns := rfl
@[simp] theorem State.emit_now (o : Output) : (s.emit o).now = s.now := rfl
@[simp] theorem State.emit_draws (o : Output) : (s.emit o).draws = s.draws := rfl
@[simp] theorem State.emit_port (o : Output) : (s.emit o).port = s.port := rfl
@[simp] theorem State.emit_invoked (o : Output) : (s.emit o).invoked = s.invoked := rfl

@[simp] theorem State.emit_reg (o : Output) (a : Nat) : (s.emit o).reg a = s.reg a := rfl

/-! ### `ret` -/

@[simp] theorem State.ret_cfg (c : Option Byte) (v : ReturnValue) : (s.ret c v).cfg = s.cfg := rfl
@[simp] theorem State.ret_suspend (c : Option Byte) (v : ReturnValue) : (s.ret c v).suspend = s.suspend := rfl
@[simp] theorem State.ret_flags (c : Option Byte) (v : ReturnValue) : (s.ret c v).flags = s.flags := rfl
@[simp] theorem State.ret_lastCurlim (c : Option Byte) (v : ReturnValue) : (s.ret c v).lastCurlim = s.lastCurlim := rfl
@[simp] theorem State.ret_usbRemovalCount (c : Option Byte) (v : ReturnValue) : (s.ret c v).usbRemovalCount = s.usbRemovalCount := rfl
@[simp] theorem State.ret_coldplugDone (c : Option Byte) (v : ReturnValue) : (s.ret c v).coldplugDone = s.coldplugDone := rfl
@[simp] theorem State.ret_onkeySeconds (c : Option Byte) (v : ReturnValue) : (s.ret c v).onkeySeconds = s.onkeySeconds := rfl
@[simp] theorem State.ret_resumeSnapshot (c : Option Byte) (v : ReturnValue) : (s.ret c v).resumeSnapshot = s.resumeSnapshot := rfl
@[simp] theorem State.ret_onkeyPressed (c : Option Byte) (v : ReturnValue) : (s.ret c v).onkeyPressed = s.onkeyPressed := rfl
@[simp] theorem State.ret_suppressOnkey (c : Option Byte) (v : ReturnValue) : (s.ret c v).suppressOnkey = s.suppressOnkey := rfl
@[simp] theorem State.ret_lastBatInsert (c : Option Byte) (v : ReturnValue) : (s.ret c v).lastBatInsert = s.lastBatInsert := rfl
@[simp] theorem State.ret_rtcWantsTick (c : Option Byte) (v : ReturnValue) : (s.ret c v).rtcWantsTick = s.rtcWantsTick := rfl
@[simp] theorem State.ret_savedMask (c : Option Byte) (v : ReturnValue) : (s.ret c v).savedMask = s.savedMask := rfl
@[simp] theorem State.ret_probed (c : Option Byte) (v : ReturnValue) : (s.ret c v).probed = s.probed := rfl
@[simp] theorem State.ret_standbyIssued (c : Option Byte) (v : ReturnValue) : (s.ret c v).standbyIssued = s.standbyIssued := rfl
@[simp] theorem State.ret_irqDelivery (c : Option Byte) (v : ReturnValue) : (s.ret c v).irqDelivery = s.irqDelivery := rfl
@[simp] theorem State.ret_disp (c : Option Byte) (v : ReturnValue) : (s.ret c v).disp = s.disp := rfl
@[simp] theorem State.ret_dispatchReq (c : Option Byte) (v : ReturnValue) : (s.ret c v).dispatchReq = s.dispatchReq := rfl
@[simp] theorem State.ret_pass (c : Option Byte) (v : ReturnValue) : (s.ret c v).pass = s.pass := rfl
@[simp] theorem State.ret_nobat (c : Option Byte) (v : ReturnValue) : (s.ret c v).nobat = s.nobat := rfl
@[simp] theorem State.ret_curlim (c : Option Byte) (v : ReturnValue) : (s.ret c v).curlim = s.curlim := rfl
@[simp] theorem State.ret_slots (c : Option Byte) (v : ReturnValue) : (s.ret c v).slots = s.slots := rfl
@[simp] theorem State.ret_head (c : Option Byte) (v : ReturnValue) : (s.ret c v).head = s.head := rfl
@[simp] theorem State.ret_tail (c : Option Byte) (v : ReturnValue) : (s.ret c v).tail = s.tail := rfl
@[simp] theorem State.ret_waiters (c : Option Byte) (v : ReturnValue) : (s.ret c v).waiters = s.waiters := rfl
@[simp] theorem State.ret_adcHw (c : Option Byte) (v : ReturnValue) : (s.ret c v).adcHw = s.adcHw := rfl
@[simp] theorem State.ret_irqSeen (c : Option Byte) (v : ReturnValue) : (s.ret c v).irqSeen = s.irqSeen := rfl
@[simp] theorem State.ret_regs (c : Option Byte) (v : ReturnValue) : (s.ret c v).regs = s.regs := rfl
@[simp] theorem State.ret_outputs (c : Option Byte) (v : ReturnValue) : (s.ret c v).outputs = s.outputs := rfl
@[simp] theorem State.ret_returns (c : Option Byte) (v : ReturnValue) : (s.ret c v).returns = s.returns ++ [⟨c, v⟩] := rfl
@[simp] theorem State.ret_now (c : Option Byte) (v : ReturnValue) : (s.ret c v).now = s.now := rfl
@[simp] theorem State.ret_draws (c : Option Byte) (v : ReturnValue) : (s.ret c v).draws = s.draws := rfl
@[simp] theorem State.ret_port (c : Option Byte) (v : ReturnValue) : (s.ret c v).port = s.port := rfl
@[simp] theorem State.ret_invoked (c : Option Byte) (v : ReturnValue) : (s.ret c v).invoked = s.invoked := rfl

@[simp] theorem State.ret_reg (c : Option Byte) (v : ReturnValue) (a : Nat) : (s.ret c v).reg a = s.reg a := rfl

/-! ### `raise` -/

@[simp] theorem State.raise_cfg (c : Option Byte) (e : ErrorCode) : (s.raise c e).cfg = s.cfg := rfl
@[simp] theorem State.raise_suspend (c : Option Byte) (e : ErrorCode) : (s.raise c e).suspend = s.suspend := rfl
@[simp] theorem State.raise_flags (c : Option Byte) (e : ErrorCode) : (s.raise c e).flags = s.flags := rfl
@[simp] theorem State.raise_lastCurlim (c : Option Byte) (e : ErrorCode) : (s.raise c e).lastCurlim = s.lastCurlim := rfl
@[simp] theorem State.raise_usbRemovalCount (c : Option Byte) (e : ErrorCode) : (s.raise c e).usbRemovalCount = s.usbRemovalCount := rfl
@[simp] theorem State.raise_coldplugDone (c : Option Byte) (e : ErrorCode) : (s.raise c e).coldplugDone = s.coldplugDone := rfl
@[simp] theorem State.raise_onkeySeconds (c : Option Byte) (e : ErrorCode) : (s.raise c e).onkeySeconds = s.onkeySeconds := rfl
@[simp] theorem State.raise_resumeSnapshot (c : Option Byte) (e : ErrorCode) : (s.raise c e).resumeSnapshot = s.resumeSnapshot := rfl
@[simp] theorem State.raise_onkeyPressed (c : Option Byte) (e : ErrorCode) : (s.raise c e).onkeyPressed = s.onkeyPressed := rfl
@[simp] theorem State.raise_suppressOnkey (c : Option Byte) (e : ErrorCode) : (s.raise c e).suppressOnkey = s.suppressOnkey := rfl
@[simp] theorem State.raise_lastBatInsert (c : Option Byte) (e : ErrorCode) : (s.raise c e).lastBatInsert = s.lastBatInsert := rfl
@[simp] theorem State.raise_rtcWantsTick (c : Option Byte) (e : ErrorCode) : (s.raise c e).rtcWantsTick = s.rtcWantsTick := rfl
@[simp] theorem State.raise_savedMask (c : Option Byte) (e : ErrorCode) : (s.raise c e).savedMask = s.savedMask := rfl
@[simp] theorem State.raise_probed (c : Option Byte) (e : ErrorCode) : (s.raise c e).probed = s.probed := rfl
@[simp] theorem State.raise_standbyIssued (c : Option Byte) (e : ErrorCode) : (s.raise c e).standbyIssued = s.standbyIssued := rfl
@[simp] theorem State.raise_irqDelivery (c : Option Byte) (e : ErrorCode) : (s.raise c e).irqDelivery = s.irqDelivery := rfl
@[simp] theorem State.raise_disp (c : Option Byte) (e : ErrorCode) : (s.raise c e).disp = s.disp := rfl
@[simp] theorem State.raise_dispatchReq (c : Option Byte) (e : ErrorCode) : (s.raise c e).dispatchReq = s.dispatchReq := rfl
@[simp] theorem State.raise_pass (c : Option Byte) (e : ErrorCode) : (s.raise c e).pass = s.pass := rfl
@[simp] theorem State.raise_nobat (c : Option Byte) (e : ErrorCode) : (s.raise c e).nobat = s.nobat := rfl
@[simp] theorem State.raise_curlim (c : Option Byte) (e : ErrorCode) : (s.raise c e).curlim = s.curlim := rfl
@[simp] theorem State.raise_slots (c : Option Byte) (e : ErrorCode) : (s.raise c e).slots = s.slots := rfl
@[simp] theorem State.raise_head (c : Option Byte) (e : ErrorCode) : (s.raise c e).head = s.head := rfl
@[simp] theorem State.raise_tail (c : Option Byte) (e : ErrorCode) : (s.raise c e).tail = s.tail := rfl
@[simp] theorem State.raise_waiters (c : Option Byte) (e : ErrorCode) : (s.raise c e).waiters = s.waiters := rfl
@[simp] theorem State.raise_adcHw (c : Option Byte) (e : ErrorCode) : (s.raise c e).adcHw = s.adcHw := rfl
@[simp] theorem State.raise_irqSeen (c : Option Byte) (e : ErrorCode) : (s.raise c e).irqSeen = s.irqSeen := rfl
@[simp] theorem State.raise_regs (c : Option Byte) (e : ErrorCode) : (s.raise c e).regs = s.regs := rfl
@[simp] theorem State.raise_outputs (c : Option Byte) (e : ErrorCode) : (s.raise c e).outputs = s.outputs := rfl
@[simp] theorem State.raise_returns (c : Option Byte) (e : ErrorCode) : (s.raise c e).returns = s.returns ++ [⟨c, .error e⟩] := rfl
@[simp] theorem State.raise_now (c : Option Byte) (e : ErrorCode) : (s.raise c e).now = s.now := rfl
@[simp] theorem State.raise_draws (c : Option Byte) (e : ErrorCode) : (s.raise c e).draws = s.draws := rfl
@[simp] theorem State.raise_port (c : Option Byte) (e : ErrorCode) : (s.raise c e).port = s.port := rfl
@[simp] theorem State.raise_invoked (c : Option Byte) (e : ErrorCode) : (s.raise c e).invoked = s.invoked := rfl

@[simp] theorem State.raise_reg (c : Option Byte) (e : ErrorCode) (a : Nat) : (s.raise c e).reg a = s.reg a := rfl

/-! ### `violation` -/

@[simp] theorem State.violation_cfg (c : Option Byte) : (s.violation c).cfg = s.cfg := rfl
@[simp] theorem State.violation_suspend (c : Option Byte) : (s.violation c).suspend = s.suspend := rfl
@[simp] theorem State.violation_flags (c : Option Byte) : (s.violation c).flags = s.flags := rfl
@[simp] theorem State.violation_lastCurlim (c : Option Byte) : (s.violation c).lastCurlim = s.lastCurlim := rfl
@[simp] theorem State.violation_usbRemovalCount (c : Option Byte) : (s.violation c).usbRemovalCount = s.usbRemovalCount := rfl
@[simp] theorem State.violation_coldplugDone (c : Option Byte) : (s.violation c).coldplugDone = s.coldplugDone := rfl
@[simp] theorem State.violation_onkeySeconds (c : Option Byte) : (s.violation c).onkeySeconds = s.onkeySeconds := rfl
@[simp] theorem State.violation_resumeSnapshot (c : Option Byte) : (s.violation c).resumeSnapshot = s.resumeSnapshot := rfl
@[simp] theorem State.violation_onkeyPressed (c : Option Byte) : (s.violation c).onkeyPressed = s.onkeyPressed := rfl
@[simp] theorem State.violation_suppressOnkey (c : Option Byte) : (s.violation c).suppressOnkey = s.suppressOnkey := rfl
@[simp] theorem State.violation_lastBatInsert (c : Option Byte) : (s.violation c).lastBatInsert = s.lastBatInsert := rfl
@[simp] theorem State.violation_rtcWantsTick (c : Option Byte) : (s.violation c).rtcWantsTick = s.rtcWantsTick := rfl
@[simp] theorem State.violation_savedMask (c : Option Byte) : (s.violation c).savedMask = s.savedMask := rfl
@[simp] theorem State.violation_probed (c : Option Byte) : (s.violation c).probed = s.probed := rfl
@[simp] theorem State.violation_standbyIssued (c : Option Byte) : (s.violation c).standbyIssued = s.standbyIssued := rfl
@[simp] theorem State.violation_irqDelivery (c : Option Byte) : (s.violation c).irqDelivery = s.irqDelivery := rfl
@[simp] theorem State.violation_disp (c : Option Byte) : (s.violation c).disp = s.disp := rfl
@[simp] theorem State.violation_dispatchReq (c : Option Byte) : (s.violation c).dispatchReq = s.dispatchReq := rfl
@[simp] theorem State.violation_pass (c : Option Byte) : (s.violation c).pass = s.pass := rfl
@[simp] theorem State.violation_nobat (c : Option Byte) : (s.violation c).nobat = s.nobat := rfl
@[simp] theorem State.violation_curlim (c : Option Byte) : (s.violation c).curlim = s.curlim := rfl
@[simp] theorem State.violation_slots (c : Option Byte) : (s.violation c).slots = s.slots := rfl
@[simp] theorem State.violation_head (c : Option Byte) : (s.violation c).head = s.head := rfl
@[simp] theorem State.violation_tail (c : Option Byte) : (s.violation c).tail = s.tail := rfl
@[simp] theorem State.violation_waiters (c : Option Byte) : (s.violation c).waiters = s.waiters := rfl
@[simp] theorem State.violation_adcHw (c : Option Byte) : (s.violation c).adcHw = s.adcHw := rfl
@[simp] theorem State.violation_irqSeen (c : Option Byte) : (s.violation c).irqSeen = s.irqSeen := rfl
@[simp] theorem State.violation_regs (c : Option Byte) : (s.violation c).regs = s.regs := rfl
@[simp] theorem State.violation_outputs (c : Option Byte) : (s.violation c).outputs = s.outputs ++ [.defect .suspendViolation] := rfl
@[simp] theorem State.violation_returns (c : Option Byte) : (s.violation c).returns = s.returns ++ [⟨c, .error .suspendViolation⟩] := rfl
@[simp] theorem State.violation_now (c : Option Byte) : (s.violation c).now = s.now := rfl
@[simp] theorem State.violation_draws (c : Option Byte) : (s.violation c).draws = s.draws := rfl
@[simp] theorem State.violation_port (c : Option Byte) : (s.violation c).port = s.port := rfl
@[simp] theorem State.violation_invoked (c : Option Byte) : (s.violation c).invoked = s.invoked := rfl

@[simp] theorem State.violation_reg (c : Option Byte) (a : Nat) : (s.violation c).reg a = s.reg a := rfl

/-! ### `setReg` -/

@[simp] theorem State.setReg_cfg (a : Nat) (v : Byte) : (s.setReg a v).cfg = s.cfg := rfl
@[simp] theorem State.setReg_suspend (a : Nat) (v : Byte) : (s.setReg a v).suspend = s.suspend := rfl
@[simp] theorem State.setReg_flags (a : Nat) (v : Byte) : (s.setReg a v).flags = s.flags := rfl
@[simp] theorem State.setReg_lastCurlim (a : Nat) (v : Byte) : (s.setReg a v).lastCurlim = s.lastCurlim := rfl
@[simp] theorem State.setReg_usbRemovalCount (a : Nat) (v : Byte) : (s.setReg a v).usbRemovalCount = s.usbRemovalCount := rfl
@[simp] theorem State.setReg_coldplugDone (a : Nat) (v : Byte) : (s.setReg a v).coldplugDone = s.coldplugDone := rfl
@[simp] theorem State.setReg_onkeySeconds (a : Nat) (v : Byte) : (s.setReg a v).onkeySeconds = s.onkeySeconds := rfl
@[simp] theorem State.setReg_resumeSnapshot (a : Nat) (v : Byte) : (s.setReg a v).resumeSnapshot = s.resumeSnapshot := rfl
@[simp] theorem State.setReg_onkeyPressed (a : Nat) (v : Byte) : (s.setReg a v).onkeyPressed = s.onkeyPressed := rfl
@[simp] theorem State.setReg_suppressOnkey (a : Nat) (v : Byte) : (s.setReg a v).suppressOnkey = s.suppressOnkey := rfl
@[simp] theorem State.setReg_lastBatInsert (a : Nat) (v : Byte) : (s.setReg a v).lastBatInsert = s.lastBatInsert := rfl
@[simp] theorem State.setReg_rtcWantsTick (a : Nat) (v : Byte) : (s.setReg a v).rtcWantsTick = s.rtcWantsTick := rfl
@[simp] theorem State.setReg_savedMask (a : Nat) (v : Byte) : (s.setReg a v).savedMask = s.savedMask := rfl
@[simp] theorem State.setReg_probed (a : Nat) (v : Byte) : (s.setReg a v).probed = s.probed := rfl
@[simp] theorem State.setReg_standbyIssued (a : Nat) (v : Byte) : (s.setReg a v).standbyIssued = s.standbyIssued := rfl
@[simp] theorem State.setReg_irqDelivery (a : Nat) (v : Byte) : (s.setReg a v).irqDelivery = s.irqDelivery := rfl
@[simp] theorem State.setReg_disp (a : Nat) (v : Byte) : (s.setReg a v).disp = s.disp := rfl
@[simp] theorem State.setReg_dispatchReq (a : Nat) (v : Byte) : (s.setReg a v).dispatchReq = s.dispatchReq := rfl
@[simp] theorem State.setReg_pass (a : Nat) (v : Byte) : (s.setReg a v).pass = s.pass := rfl
@[simp] theorem State.setReg_nobat (a : Nat) (v : Byte) : (s.setReg a v).nobat = s.nobat := rfl
@[simp] theorem State.setReg_curlim (a : Nat) (v : Byte) : (s.setReg a v).curlim = s.curlim := rfl
@[simp] theorem State.setReg_slots (a : Nat) (v : Byte) : (s.setReg a v).slots = s.slots := rfl
@[simp] theorem State.setReg_head (a : Nat) (v : Byte) : (s.setReg a v).head = s.head := rfl
@[simp] theorem State.setReg_tail (a : Nat) (v : Byte) : (s.setReg a v).tail = s.tail := rfl
@[simp] theorem State.setReg_waiters (a : Nat) (v : Byte) : (s.setReg a v).waiters = s.waiters := rfl
@[simp] theorem State.setReg_adcHw (a : Nat) (v : Byte) : (s.setReg a v).adcHw = s.adcHw := rfl
@[simp] theorem State.setReg_irqSeen (a : Nat) (v : Byte) : (s.setReg a v).irqSeen = s.irqSeen := rfl
@[simp] theorem State.setReg_regs (a : Nat) (v : Byte) : (s.setReg a v).regs = Memory.write s.regs a v := rfl
@[simp] theorem State.setReg_outputs (a : Nat) (v : Byte) : (s.setReg a v).outputs = s.outputs := rfl
@[simp] theorem State.setReg_returns (a : Nat) (v : Byte) : (s.setReg a v).returns = s.returns := rfl
@[simp] theorem State.setReg_now (a : Nat) (v : Byte) : (s.setReg a v).now = s.now := rfl
@[simp] theorem State.setReg_draws (a : Nat) (v : Byte) : (s.setReg a v).draws = s.draws := rfl
@[simp] theorem State.setReg_port (a : Nat) (v : Byte) : (s.setReg a v).port = s.port := rfl
@[simp] theorem State.setReg_invoked (a : Nat) (v : Byte) : (s.setReg a v).invoked = s.invoked := rfl

/-! ### `settleLine` -/

@[simp] theorem State.settleLine_cfg : s.settleLine.cfg = s.cfg := rfl
@[simp] theorem State.settleLine_suspend : s.settleLine.suspend = s.suspend := rfl
@[simp] theorem State.settleLine_flags : s.settleLine.flags = s.flags := rfl
@[simp] theorem State.settleLine_lastCurlim : s.settleLine.lastCurlim = s.lastCurlim := rfl
@[simp] theorem State.settleLine_usbRemovalCount : s.settleLine.usbRemovalCount = s.usbRemovalCount := rfl
@[simp] theorem State.settleLine_coldplugDone : s.settleLine.coldplugDone = s.coldplugDone := rfl
@[simp] theorem State.settleLine_onkeySeconds : s.settleLine.onkeySeconds = s.onkeySeconds := rfl
@[simp] theorem State.settleLine_resumeSnapshot : s.settleLine.resumeSnapshot = s.resumeSnapshot := rfl
@[simp] theorem State.settleLine_onkeyPressed : s.settleLine.onkeyPressed = s.onkeyPressed := rfl
@[simp] theorem State.settleLine_suppressOnkey : s.settleLine.suppressOnkey = s.suppressOnkey := rfl
@[simp] theorem State.settleLine_lastBatInsert : s.settleLine.lastBatInsert = s.lastBatInsert := rfl
@[simp] theorem State.settleLine_rtcWantsTick : s.settleLine.rtcWantsTick = s.rtcWantsTick := rfl
@[simp] theorem State.settleLine_savedMask : s.settleLine.savedMask = s.savedMask := rfl
@[simp] theorem State.settleLine_probed : s.settleLine.probed = s.probed := rfl
@[simp] theorem State.settleLine_standbyIssued : s.settleLine.standbyIssued = s.standbyIssued := rfl
@[simp] theorem State.settleLine_irqDelivery : s.settleLine.irqDelivery = s.irqDelivery := rfl
@[simp] theorem State.settleLine_disp : s.settleLine.disp = s.disp := rfl
@[simp] theorem State.settleLine_dispatchReq : s.settleLine.dispatchReq = s.dispatchReq := rfl
@[simp] theorem State.settleLine_pass : s.settleLine.pass = s.pass := rfl
@[simp] theorem State.settleLine_nobat : s.settleLine.nobat = s.nobat := rfl
@[simp] theorem State.settleLine_curlim : s.settleLine.curlim = s.curlim := rfl
@[simp] theorem State.settleLine_slots : s.settleLine.slots = s.slots := rfl
@[simp] theorem State.settleLine_head : s.settleLine.head = s.head := rfl
@[simp] theorem State.settleLine_tail : s.settleLine.tail = s.tail := rfl
@[simp] theorem State.settleLine_waiters : s.settleLine.waiters = s.waiters := rfl
@[simp] theorem State.settleLine_adcHw : s.settleLine.adcHw = s.adcHw := rfl
@[simp] theorem State.settleLine_irqSeen : s.settleLine.irqSeen = (s.irqSeen && s.irqLine) := rfl
@[simp] theorem State.settleLine_regs : s.settleLine.regs = s.regs := rfl
@[simp] theorem State.settleLine_outputs : s.settleLine.outputs = s.outputs := rfl
@[simp] theorem State.settleLine_returns : s.settleLine.returns = s.returns := rfl
@[simp] theorem State.settleLine_now : s.settleLine.now = s.now := rfl
@[simp] theorem State.settleLine_draws : s.settleLine.draws = s.draws := rfl
@[simp] theorem State.settleLine_port : s.settleLine.port = s.port := rfl
@[simp] theorem State.settleLine_invoked : s.settleLine.invoked = s.invoked := rfl

@[simp] theorem State.settleLine_reg (a : Nat) : s.settleLine.reg a = s.reg a := rfl

/-! ### `setChgPresent` -/

@[simp] theorem State.setChgPresent_cfg (b : Bool) : (s.setChgPresent b).cfg = s.cfg := rfl
@[simp] theorem State.setChgPresent_suspend (b : Bool) : (s.setChgPresent b).suspend = s.suspend := rfl
@[simp] theorem State.setChgPresent_flags (b : Bool) : (s.setChgPresent b).flags = { s.flags with chgPresent := b } := rfl
@[simp] theorem State.setChgPresent_lastCurlim (b : Bool) : (s.setChgPresent b).lastCurlim = s.lastCurlim := rfl
@[simp] theorem State.setChgPresent_usbRemovalCount (b : Bool) : (s.setChgPresent b).usbRemovalCount = s.usbRemovalCount := rfl
@[simp] theorem State.setChgPresent_coldplugDone (b : Bool) : (s.setChgPresent b).coldplugDone = s.coldplugDone := rfl
@[simp] theorem State.setChgPresent_onkeySeconds (b : Bool) : (s.setChgPresent b).onkeySeconds = s.onkeySeconds := rfl
@[simp] theorem State.setChgPresent_resumeSnapshot (b : Bool) : (s.setChgPresent b).resumeSnapshot = s.resumeSnapshot := rfl
@[simp] theorem State.setChgPresent_onkeyPressed (b : Bool) : (s.setChgPresent b).onkeyPressed = s.onkeyPressed := rfl
@[simp] theorem State.setChgPresent_suppressOnkey (b : Bool) : (s.setChgPresent b).suppressOnkey = s.suppressOnkey := rfl
@[simp] theorem State.setChgPresent_lastBatInsert (b : Bool) : (s.setChgPresent b).lastBatInsert = s.lastBatInsert := rfl
@[simp] theorem State.setChgPresent_rtcWantsTick (b : Bool) : (s.setChgPresent b).rtcWantsTick = s.rtcWantsTick := rfl
@[simp] theorem State.setChgPresent_savedMask (b : Bool) : (s.setChgPresent b).savedMask = s.savedMask := rfl
@[simp] theorem State.setChgPresent_probed (b : Bool) : (s.setChgPresent b).probed = s.probed := rfl
@[simp] theorem State.setChgPresent_standbyIssued (b : Bool) : (s.setChgPresent b).standbyIssued = s.standbyIssued := rfl
@[simp] theorem State.setChgPresent_irqDelivery (b : Bool) : (s.setChgPresent b).irqDelivery = s.irqDelivery := rfl
@[simp] theorem State.setChgPresent_disp (b : Bool) : (s.setChgPresent b).disp = s.disp := rfl
@[simp] theorem State.setChgPresent_dispatchReq (b : Bool) : (s.setChgPresent b).dispatchReq = s.dispatchReq := rfl
@[simp] theorem State.setChgPresent_pass (b : Bool) : (s.setChgPresent b).pass = s.pass := rfl
@[simp] theorem State.setChgPresent_nobat (b : Bool) : (s.setChgPresent b).nobat = s.nobat := rfl
@[simp] theorem State.setChgPresent_curlim (b : Bool) : (s.setChgPresent b).curlim = s.curlim := rfl
@[simp] theorem State.setChgPresent_slots (b : Bool) : (s.setChgPresent b).slots = s.slots := rfl
@[simp] theorem State.setChgPresent_head (b : Bool) : (s.setChgPresent b).head = s.head := rfl
@[simp] theorem State.setChgPresent_tail (b : Bool) : (s.setChgPresent b).tail = s.tail := rfl
@[simp] theorem State.setChgPresent_waiters (b : Bool) : (s.setChgPresent b).waiters = s.waiters := rfl
@[simp] theorem State.setChgPresent_adcHw (b : Bool) : (s.setChgPresent b).adcHw = s.adcHw := rfl
@[simp] theorem State.setChgPresent_irqSeen (b : Bool) : (s.setChgPresent b).irqSeen = s.irqSeen := rfl
@[simp] theorem State.setChgPresent_regs (b : Bool) : (s.setChgPresent b).regs = s.regs := rfl
@[simp] theorem State.setChgPresent_outputs (b : Bool) : (s.setChgPresent b).outputs = s.outputs := rfl
@[simp] theorem State.setChgPresent_returns (b : Bool) : (s.setChgPresent b).returns = s.returns := rfl
@[simp] theorem State.setChgPresent_now (b : Bool) : (s.setChgPresent b).now = s.now := rfl
@[simp] theorem State.setChgPresent_draws (b : Bool) : (s.setChgPresent b).draws = s.draws := rfl
@[simp] theorem State.setChgPresent_port (b : Bool) : (s.setChgPresent b).port = s.port := rfl
@[simp] theorem State.setChgPresent_invoked (b : Bool) : (s.setChgPresent b).invoked = s.invoked := rfl

@[simp] theorem State.setChgPresent_reg (b : Bool) (a : Nat) : (s.setChgPresent b).reg a = s.reg a := rfl

/-! ### `setUsbPresent` -/

@[simp] theorem State.setUsbPresent_cfg (b : Bool) : (s.setUsbPresent b).cfg = s.cfg := rfl
@[simp] theorem State.setUsbPresent_suspend (b : Bool) : (s.setUsbPresent b).suspend = s.suspend := rfl
@[simp] theorem State.setUsbPresent_flags (b : Bool) : (s.setUsbPresent b).flags = { s.flags with usbPresent := b } := rfl
@[simp] theorem State.setUsbPresent_lastCurlim (b : Bool) : (s.setUsbPresent b).lastCurlim = s.lastCurlim := rfl
@[simp] theorem State.setUsbPresent_usbRemovalCount (b : Bool) : (s.setUsbPresent b).usbRemovalCount = s.usbRemovalCount := rfl
@[simp] theorem State.setUsbPresent_coldplugDone (b : Bool) : (s.setUsbPresent b).coldplugDone = s.coldplugDone := rfl
@[simp] theorem State.setUsbPresent_onkeySeconds (b : Bool) : (s.setUsbPresent b).onkeySeconds = s.onkeySeconds := rfl
@[simp] theorem State.setUsbPresent_resumeSnapshot (b : Bool) : (s.setUsbPresent b).resumeSnapshot = s.resumeSnapshot := rfl
@[simp] theorem State.setUsbPresent_onkeyPressed (b : Bool) : (s.setUsbPresent b).onkeyPressed = s.onkeyPressed := rfl
@[simp] theorem State.setUsbPresent_suppressOnkey (b : Bool) : (s.setUsbPresent b).suppressOnkey = s.suppressOnkey := rfl
@[simp] theorem State.setUsbPresent_lastBatInsert (b : Bool) : (s.setUsbPresent b).lastBatInsert = s.lastBatInsert := rfl
@[simp] theorem State.setUsbPresent_rtcWantsTick (b : Bool) : (s.setUsbPresent b).rtcWantsTick = s.rtcWantsTick := rfl
@[simp] theorem State.setUsbPresent_savedMask (b : Bool) : (s.setUsbPresent b).savedMask = s.savedMask := rfl
@[simp] theorem State.setUsbPresent_probed (b : Bool) : (s.setUsbPresent b).probed = s.probed := rfl
@[simp] theorem State.setUsbPresent_standbyIssued (b : Bool) : (s.setUsbPresent b).standbyIssued = s.standbyIssued := rfl
@[simp] theorem State.setUsbPresent_irqDelivery (b : Bool) : (s.setUsbPresent b).irqDelivery = s.irqDelivery := rfl
@[simp] theorem State.setUsbPresent_disp (b : Bool) : (s.setUsbPresent b).disp = s.disp := rfl
@[simp] theorem State.setUsbPresent_dispatchReq (b : Bool) : (s.setUsbPresent b).dispatchReq = s.dispatchReq := rfl
@[simp] theorem State.setUsbPresent_pass (b : Bool) : (s.setUsbPresent b).pass = s.pass := rfl
@[simp] theorem State.setUsbPresent_nobat (b : Bool) : (s.setUsbPresent b).nobat = s.nobat := rfl
@[simp] theorem State.setUsbPresent_curlim (b : Bool) : (s.setUsbPresent b).curlim = s.curlim := rfl
@[simp] theorem State.setUsbPresent_slots (b : Bool) : (s.setUsbPresent b).slots = s.slots := rfl
@[simp] theorem State.setUsbPresent_head (b : Bool) : (s.setUsbPresent b).head = s.head := rfl
@[simp] theorem State.setUsbPresent_tail (b : Bool) : (s.setUsbPresent b).tail = s.tail := rfl
@[simp] theorem State.setUsbPresent_waiters (b : Bool) : (s.setUsbPresent b).waiters = s.waiters := rfl
@[simp] theorem State.setUsbPresent_adcHw (b : Bool) : (s.setUsbPresent b).adcHw = s.adcHw := rfl
@[simp] theorem State.setUsbPresent_irqSeen (b : Bool) : (s.setUsbPresent b).irqSeen = s.irqSeen := rfl
@[simp] theorem State.setUsbPresent_regs (b : Bool) : (s.setUsbPresent b).regs = s.regs := rfl
@[simp] theorem State.setUsbPresent_outputs (b : Bool) : (s.setUsbPresent b).outputs = s.outputs := rfl
@[simp] theorem State.setUsbPresent_returns (b : Bool) : (s.setUsbPresent b).returns = s.returns := rfl
@[simp] theorem State.setUsbPresent_now (b : Bool) : (s.setUsbPresent b).now = s.now := rfl
@[simp] theorem State.setUsbPresent_draws (b : Bool) : (s.setUsbPresent b).draws = s.draws := rfl
@[simp] theorem State.setUsbPresent_port (b : Bool) : (s.setUsbPresent b).port = s.port := rfl
@[simp] theorem State.setUsbPresent_invoked (b : Bool) : (s.setUsbPresent b).invoked = s.invoked := rfl

@[simp] theorem State.setUsbPresent_reg (b : Bool) (a : Nat) : (s.setUsbPresent b).reg a = s.reg a := rfl

/-! ### `setChgEnabled` -/

@[simp] theorem State.setChgEnabled_cfg (b : Bool) : (s.setChgEnabled b).cfg = s.cfg := rfl
@[simp] theorem State.setChgEnabled_suspend (b : Bool) : (s.setChgEnabled b).suspend = s.suspend := rfl
@[simp] theorem State.setChgEnabled_flags (b : Bool) : (s.setChgEnabled b).flags = { s.flags with chgEnabled := b } := rfl
@[simp] theorem State.setChgEnabled_lastCurlim (b : Bool) : (s.setChgEnabled b).lastCurlim = s.lastCurlim := rfl
@[simp] theorem State.setChgEnabled_usbRemovalCount (b : Bool) : (s.setChgEnabled b).usbRemovalCount = s.usbRemovalCount := rfl
@[simp] theorem State.setChgEnabled_coldplugDone (b : Bool) : (s.setChgEnabled b).coldplugDone = s.coldplugDone := rfl
@[simp] theorem State.setChgEnabled_onkeySeconds (b : Bool) : (s.setChgEnabled b).onkeySeconds = s.onkeySeconds := rfl
@[simp] theorem State.setChgEnabled_resumeSnapshot (b : Bool) : (s.setChgEnabled b).resumeSnapshot = s.resumeSnapshot := rfl
@[simp] theorem State.setChgEnabled_onkeyPressed (b : Bool) : (s.setChgEnabled b).onkeyPressed = s.onkeyPressed := rfl
@[simp] theorem State.setChgEnabled_suppressOnkey (b : Bool) : (s.setChgEnabled b).suppressOnkey = s.suppressOnkey := rfl
@[simp] theorem State.setChgEnabled_lastBatInsert (b : Bool) : (s.setChgEnabled b).lastBatInsert = s.lastBatInsert := rfl
@[simp] theorem State.setChgEnabled_rtcWantsTick (b : Bool) : (s.setChgEnabled b).rtcWantsTick = s.rtcWantsTick := rfl
@[simp] theorem State.setChgEnabled_savedMask (b : Bool) : (s.setChgEnabled b).savedMask = s.savedMask := rfl
@[simp] theorem State.setChgEnabled_probed (b : Bool) : (s.setChgEnabled b).probed = s.probed := rfl
@[simp] theorem State.setChgEnabled_standbyIssued (b : Bool) : (s.setChgEnabled b).standbyIssued = s.standbyIssued := rfl
@[simp] theorem State.setChgEnabled_irqDelivery (b : Bool) : (s.setChgEnabled b).irqDelivery = s.irqDelivery := rfl
@[simp] theorem State.setChgEnabled_disp (b : Bool) : (s.setChgEnabled b).disp = s.disp := rfl
@[simp] theorem State.setChgEnabled_dispatchReq (b : Bool) : (s.setChgEnabled b).dispatchReq = s.dispatchReq := rfl
@[simp] theorem State.setChgEnabled_pass (b : Bool) : (s.setChgEnabled b).pass = s.pass := rfl
@[simp] theorem State.setChgEnabled_nobat (b : Bool) : (s.setChgEnabled b).nobat = s.nobat := rfl
@[simp] theorem State.setChgEnabled_curlim (b : Bool) : (s.setChgEnabled b).curlim = s.curlim := rfl
@[simp] theorem State.setChgEnabled_slots (b : Bool) : (s.setChgEnabled b).slots = s.slots := rfl
@[simp] theorem State.setChgEnabled_head (b : Bool) : (s.setChgEnabled b).head = s.head := rfl
@[simp] theorem State.setChgEnabled_tail (b : Bool) : (s.setChgEnabled b).tail = s.tail := rfl
@[simp] theorem State.setChgEnabled_waiters (b : Bool) : (s.setChgEnabled b).waiters = s.waiters := rfl
@[simp] theorem State.setChgEnabled_adcHw (b : Bool) : (s.setChgEnabled b).adcHw = s.adcHw := rfl
@[simp] theorem State.setChgEnabled_irqSeen (b : Bool) : (s.setChgEnabled b).irqSeen = s.irqSeen := rfl
@[simp] theorem State.setChgEnabled_regs (b : Bool) : (s.setChgEnabled b).regs = s.regs := rfl
@[simp] theorem State.setChgEnabled_outputs (b : Bool) : (s.setChgEnabled b).outputs = s.outputs := rfl
@[simp] theorem State.setChgEnabled_returns (b : Bool) : (s.setChgEnabled b).returns = s.returns := rfl
@[simp] theorem State.setChgEnabled_now (b : Bool) : (s.setChgEnabled b).now = s.now := rfl
@[simp] theorem State.setChgEnabled_draws (b : Bool) : (s.setChgEnabled b).draws = s.draws := rfl
@[simp] theorem State.setChgEnabled_port (b : Bool) : (s.setChgEnabled b).port = s.port := rfl
@[simp] theorem State.setChgEnabled_invoked (b : Bool) : (s.setChgEnabled b).invoked = s.invoked := rfl

@[simp] theorem State.setChgEnabled_reg (b : Bool) (a : Nat) : (s.setChgEnabled b).reg a = s.reg a := rfl

/-! ### `setChgProt` -/

@[simp] theorem State.setChgProt_cfg (b : Bool) : (s.setChgProt b).cfg = s.cfg := rfl
@[simp] theorem State.setChgProt_suspend (b : Bool) : (s.setChgProt b).suspend = s.suspend := rfl
@[simp] theorem State.setChgProt_flags (b : Bool) : (s.setChgProt b).flags = { s.flags with chgProt := b } := rfl
@[simp] theorem State.setChgProt_lastCurlim (b : Bool) : (s.setChgProt b).lastCurlim = s.lastCurlim := rfl
@[simp] theorem State.setChgProt_usbRemovalCount (b : Bool) : (s.setChgProt b).usbRemovalCount = s.usbRemovalCount := rfl
@[simp] theorem State.setChgProt_coldplugDone (b : Bool) : (s.setChgProt b).coldplugDone = s.coldplugDone := rfl
@[simp] theorem State.setChgProt_onkeySeconds (b : Bool) : (s.setChgProt b).onkeySeconds = s.onkeySeconds := rfl
@[simp] theorem State.setChgProt_resumeSnapshot (b : Bool) : (s.setChgProt b).resumeSnapshot = s.resumeSnapshot := rfl
@[simp] theorem State.setChgProt_onkeyPressed (b : Bool) : (s.setChgProt b).onkeyPressed = s.onkeyPressed := rfl
@[simp] theorem State.setChgProt_suppressOnkey (b : Bool) : (s.setChgProt b).suppressOnkey = s.suppressOnkey := rfl
@[simp] theorem State.setChgProt_lastBatInsert (b : Bool) : (s.setChgProt b).lastBatInsert = s.lastBatInsert := rfl
@[simp] theorem State.setChgProt_rtcWantsTick (b : Bool) : (s.setChgProt b).rtcWantsTick = s.rtcWantsTick := rfl
@[simp] theorem State.setChgProt_savedMask (b : Bool) : (s.setChgProt b).savedMask = s.savedMask := rfl
@[simp] theorem State.setChgProt_probed (b : Bool) : (s.setChgProt b).probed = s.probed := rfl
@[simp] theorem State.setChgProt_standbyIssued (b : Bool) : (s.setChgProt b).standbyIssued = s.standbyIssued := rfl
@[simp] theorem State.setChgProt_irqDelivery (b : Bool) : (s.setChgProt b).irqDelivery = s.irqDelivery := rfl
@[simp] theorem State.setChgProt_disp (b : Bool) : (s.setChgProt b).disp = s.disp := rfl
@[simp] theorem State.setChgProt_dispatchReq (b : Bool) : (s.setChgProt b).dispatchReq = s.dispatchReq := rfl
@[simp] theorem State.setChgProt_pass (b : Bool) : (s.setChgProt b).pass = s.pass := rfl
@[simp] theorem State.setChgProt_nobat (b : Bool) : (s.setChgProt b).nobat = s.nobat := rfl
@[simp] theorem State.setChgProt_curlim (b : Bool) : (s.setChgProt b).curlim = s.curlim := rfl
@[simp] theorem State.setChgProt_slots (b : Bool) : (s.setChgProt b).slots = s.slots := rfl
@[simp] theorem State.setChgProt_head (b : Bool) : (s.setChgProt b).head = s.head := rfl
@[simp] theorem State.setChgProt_tail (b : Bool) : (s.setChgProt b).tail = s.tail := rfl
@[simp] theorem State.setChgProt_waiters (b : Bool) : (s.setChgProt b).waiters = s.waiters := rfl
@[simp] theorem State.setChgProt_adcHw (b : Bool) : (s.setChgProt b).adcHw = s.adcHw := rfl
@[simp] theorem State.setChgProt_irqSeen (b : Bool) : (s.setChgProt b).irqSeen = s.irqSeen := rfl
@[simp] theorem State.setChgProt_regs (b : Bool) : (s.setChgProt b).regs = s.regs := rfl
@[simp] theorem State.setChgProt_outputs (b : Bool) : (s.setChgProt b).outputs = s.outputs := rfl
@[simp] theorem State.setChgProt_returns (b : Bool) : (s.setChgProt b).returns = s.returns := rfl
@[simp] theorem State.setChgProt_now (b : Bool) : (s.setChgProt b).now = s.now := rfl
@[simp] theorem State.setChgProt_draws (b : Bool) : (s.setChgProt b).draws = s.draws := rfl
@[simp] theorem State.setChgProt_port (b : Bool) : (s.setChgProt b).port = s.port := rfl
@[simp] theorem State.setChgProt_invoked (b : Bool) : (s.setChgProt b).invoked = s.invoked := rfl

@[simp] theorem State.setChgProt_reg (b : Bool) (a : Nat) : (s.setChgProt b).reg a = s.reg a := rfl

/-! ### `setNext` -/

@[simp] theorem State.setNext_cfg (m : Pass → MicroStep) : (s.setNext m).cfg = s.cfg := rfl
@[simp] theorem State.setNext_suspend (m : Pass → MicroStep) : (s.setNext m).suspend = s.suspend := rfl
@[simp] theorem State.setNext_flags (m : Pass → MicroStep) : (s.setNext m).flags = s.flags := rfl
@[simp] theorem State.setNext_lastCurlim (m : Pass → MicroStep) : (s.setNext m).lastCurlim = s.lastCurlim := rfl
@[simp] theorem State.setNext_usbRemovalCount (m : Pass → MicroStep) : (s.setNext m).usbRemovalCount = s.usbRemovalCount := rfl
@[simp] theorem State.setNext_coldplugDone (m : Pass → MicroStep) : (s.setNext m).coldplugDone = s.coldplugDone := rfl
@[simp] theorem State.setNext_onkeySeconds (m : Pass → MicroStep) : (s.setNext m).onkeySeconds = s.onkeySeconds := rfl
@[simp] theorem State.setNext_resumeSnapshot (m : Pass → MicroStep) : (s.setNext m).resumeSnapshot = s.resumeSnapshot := rfl
@[simp] theorem State.setNext_onkeyPressed (m : Pass → MicroStep) : (s.setNext m).onkeyPressed = s.onkeyPressed := rfl
@[simp] theorem State.setNext_suppressOnkey (m : Pass → MicroStep) : (s.setNext m).suppressOnkey = s.suppressOnkey := rfl
@[simp] theorem State.setNext_lastBatInsert (m : Pass → MicroStep) : (s.setNext m).lastBatInsert = s.lastBatInsert := rfl
@[simp] theorem State.setNext_rtcWantsTick (m : Pass → MicroStep) : (s.setNext m).rtcWantsTick = s.rtcWantsTick := rfl
@[simp] theorem State.setNext_savedMask (m : Pass → MicroStep) : (s.setNext m).savedMask = s.savedMask := rfl
@[simp] theorem State.setNext_probed (m : Pass → MicroStep) : (s.setNext m).probed = s.probed := rfl
@[simp] theorem State.setNext_standbyIssued (m : Pass → MicroStep) : (s.setNext m).standbyIssued = s.standbyIssued := rfl
@[simp] theorem State.setNext_irqDelivery (m : Pass → MicroStep) : (s.setNext m).irqDelivery = s.irqDelivery := rfl
@[simp] theorem State.setNext_disp (m : Pass → MicroStep) : (s.setNext m).disp = s.disp := rfl
@[simp] theorem State.setNext_dispatchReq (m : Pass → MicroStep) : (s.setNext m).dispatchReq = s.dispatchReq := rfl
@[simp] theorem State.setNext_pass (m : Pass → MicroStep) : (s.setNext m).pass = s.pass.map fun p => { p with next := m p } := rfl
@[simp] theorem State.setNext_nobat (m : Pass → MicroStep) : (s.setNext m).nobat = s.nobat := rfl
@[simp] theorem State.setNext_curlim (m : Pass → MicroStep) : (s.setNext m).curlim = s.curlim := rfl
@[simp] theorem State.setNext_slots (m : Pass → MicroStep) : (s.setNext m).slots = s.slots := rfl
@[simp] theorem State.setNext_head (m : Pass → MicroStep) : (s.setNext m).head = s.head := rfl
@[simp] theorem State.setNext_tail (m : Pass → MicroStep) : (s.setNext m).tail = s.tail := rfl
@[simp] theorem State.setNext_waiters (m : Pass → MicroStep) : (s.setNext m).waiters = s.waiters := rfl
@[simp] theorem State.setNext_adcHw (m : Pass → MicroStep) : (s.setNext m).adcHw = s.adcHw := rfl
@[simp] theorem State.setNext_irqSeen (m : Pass → MicroStep) : (s.setNext m).irqSeen = s.irqSeen := rfl
@[simp] theorem State.setNext_regs (m : Pass → MicroStep) : (s.setNext m).regs = s.regs := rfl
@[simp] theorem State.setNext_outputs (m : Pass → MicroStep) : (s.setNext m).outputs = s.outputs := rfl
@[simp] theorem State.setNext_returns (m : Pass → MicroStep) : (s.setNext m).returns = s.returns := rfl
@[simp] theorem State.setNext_now (m : Pass → MicroStep) : (s.setNext m).now = s.now := rfl
@[simp] theorem State.setNext_draws (m : Pass → MicroStep) : (s.setNext m).draws = s.draws := rfl
@[simp] theorem State.setNext_port (m : Pass → MicroStep) : (s.setNext m).port = s.port := rfl
@[simp] theorem State.setNext_invoked (m : Pass → MicroStep) : (s.setNext m).invoked = s.invoked := rfl

@[simp] theorem State.setNext_reg (m : Pass → MicroStep) (a : Nat) : (s.setNext m).reg a = s.reg a := rfl

/-! ### `holdBlock` -/

@[simp] theorem State.holdBlock_cfg (b : Block) : (s.holdBlock b).cfg = s.cfg := rfl
@[simp] theorem State.holdBlock_suspend (b : Block) : (s.holdBlock b).suspend = s.suspend := rfl
@[simp] theorem State.holdBlock_flags (b : Block) : (s.holdBlock b).flags = s.flags := rfl
@[simp] theorem State.holdBlock_lastCurlim (b : Block) : (s.holdBlock b).lastCurlim = s.lastCurlim := rfl
@[simp] theorem State.holdBlock_usbRemovalCount (b : Block) : (s.holdBlock b).usbRemovalCount = s.usbRemovalCount := rfl
@[simp] theorem State.holdBlock_coldplugDone (b : Block) : (s.holdBlock b).coldplugDone = s.coldplugDone := rfl
@[simp] theorem State.holdBlock_onkeySeconds (b : Block) : (s.holdBlock b).onkeySeconds = s.onkeySeconds := rfl
@[simp] theorem State.holdBlock_resumeSnapshot (b : Block) : (s.holdBlock b).resumeSnapshot = s.resumeSnapshot := rfl
@[simp] theorem State.holdBlock_onkeyPressed (b : Block) : (s.holdBlock b).onkeyPressed = s.onkeyPressed := rfl
@[simp] theorem State.holdBlock_suppressOnkey (b : Block) : (s.holdBlock b).suppressOnkey = s.suppressOnkey := rfl
@[simp] theorem State.holdBlock_lastBatInsert (b : Block) : (s.holdBlock b).lastBatInsert = s.lastBatInsert := rfl
@[simp] theorem State.holdBlock_rtcWantsTick (b : Block) : (s.holdBlock b).rtcWantsTick = s.rtcWantsTick := rfl
@[simp] theorem State.holdBlock_savedMask (b : Block) : (s.holdBlock b).savedMask = s.savedMask := rfl
@[simp] theorem State.holdBlock_probed (b : Block) : (s.holdBlock b).probed = s.probed := rfl
@[simp] theorem State.holdBlock_standbyIssued (b : Block) : (s.holdBlock b).standbyIssued = s.standbyIssued := rfl
@[simp] theorem State.holdBlock_irqDelivery (b : Block) : (s.holdBlock b).irqDelivery = s.irqDelivery := rfl
@[simp] theorem State.holdBlock_disp (b : Block) : (s.holdBlock b).disp = s.disp := rfl
@[simp] theorem State.holdBlock_dispatchReq (b : Block) : (s.holdBlock b).dispatchReq = s.dispatchReq := rfl
@[simp] theorem State.holdBlock_pass (b : Block) : (s.holdBlock b).pass = s.pass.map fun p => { p with block := b, next := .step4 } := rfl
@[simp] theorem State.holdBlock_nobat (b : Block) : (s.holdBlock b).nobat = s.nobat := rfl
@[simp] theorem State.holdBlock_curlim (b : Block) : (s.holdBlock b).curlim = s.curlim := rfl
@[simp] theorem State.holdBlock_slots (b : Block) : (s.holdBlock b).slots = s.slots := rfl
@[simp] theorem State.holdBlock_head (b : Block) : (s.holdBlock b).head = s.head := rfl
@[simp] theorem State.holdBlock_tail (b : Block) : (s.holdBlock b).tail = s.tail := rfl
@[simp] theorem State.holdBlock_waiters (b : Block) : (s.holdBlock b).waiters = s.waiters := rfl
@[simp] theorem State.holdBlock_adcHw (b : Block) : (s.holdBlock b).adcHw = s.adcHw := rfl
@[simp] theorem State.holdBlock_irqSeen (b : Block) : (s.holdBlock b).irqSeen = s.irqSeen := rfl
@[simp] theorem State.holdBlock_regs (b : Block) : (s.holdBlock b).regs = s.regs := rfl
@[simp] theorem State.holdBlock_outputs (b : Block) : (s.holdBlock b).outputs = s.outputs := rfl
@[simp] theorem State.holdBlock_returns (b : Block) : (s.holdBlock b).returns = s.returns := rfl
@[simp] theorem State.holdBlock_now (b : Block) : (s.holdBlock b).now = s.now := rfl
@[simp] theorem State.holdBlock_draws (b : Block) : (s.holdBlock b).draws = s.draws := rfl
@[simp] theorem State.holdBlock_port (b : Block) : (s.holdBlock b).port = s.port := rfl
@[simp] theorem State.holdBlock_invoked (b : Block) : (s.holdBlock b).invoked = s.invoked := rfl

@[simp] theorem State.holdBlock_reg (b : Block) (a : Nat) : (s.holdBlock b).reg a = s.reg a := rfl

/-! ### `take` -/

@[simp] theorem State.take_cfg (t : Turn) (rest : List Turn) : (s.take t rest).cfg = s.cfg := rfl
@[simp] theorem State.take_suspend (t : Turn) (rest : List Turn) : (s.take t rest).suspend = s.suspend := rfl
@[simp] theorem State.take_flags (t : Turn) (rest : List Turn) : (s.take t rest).flags = s.flags := rfl
@[simp] theorem State.take_lastCurlim (t : Turn) (rest : List Turn) : (s.take t rest).lastCurlim = s.lastCurlim := rfl
@[simp] theorem State.take_usbRemovalCount (t : Turn) (rest : List Turn) : (s.take t rest).usbRemovalCount = s.usbRemovalCount := rfl
@[simp] theorem State.take_coldplugDone (t : Turn) (rest : List Turn) : (s.take t rest).coldplugDone = s.coldplugDone := rfl
@[simp] theorem State.take_onkeySeconds (t : Turn) (rest : List Turn) : (s.take t rest).onkeySeconds = s.onkeySeconds := rfl
@[simp] theorem State.take_resumeSnapshot (t : Turn) (rest : List Turn) : (s.take t rest).resumeSnapshot = s.resumeSnapshot := rfl
@[simp] theorem State.take_onkeyPressed (t : Turn) (rest : List Turn) : (s.take t rest).onkeyPressed = s.onkeyPressed := rfl
@[simp] theorem State.take_suppressOnkey (t : Turn) (rest : List Turn) : (s.take t rest).suppressOnkey = s.suppressOnkey := rfl
@[simp] theorem State.take_lastBatInsert (t : Turn) (rest : List Turn) : (s.take t rest).lastBatInsert = s.lastBatInsert := rfl
@[simp] theorem State.take_rtcWantsTick (t : Turn) (rest : List Turn) : (s.take t rest).rtcWantsTick = s.rtcWantsTick := rfl
@[simp] theorem State.take_savedMask (t : Turn) (rest : List Turn) : (s.take t rest).savedMask = s.savedMask := rfl
@[simp] theorem State.take_probed (t : Turn) (rest : List Turn) : (s.take t rest).probed = s.probed := rfl
@[simp] theorem State.take_standbyIssued (t : Turn) (rest : List Turn) : (s.take t rest).standbyIssued = s.standbyIssued := rfl
@[simp] theorem State.take_irqDelivery (t : Turn) (rest : List Turn) : (s.take t rest).irqDelivery = s.irqDelivery := rfl
@[simp] theorem State.take_disp (t : Turn) (rest : List Turn) : (s.take t rest).disp = s.disp := rfl
@[simp] theorem State.take_dispatchReq (t : Turn) (rest : List Turn) : (s.take t rest).dispatchReq = s.dispatchReq := rfl
@[simp] theorem State.take_pass (t : Turn) (rest : List Turn) : (s.take t rest).pass = s.pass := rfl
@[simp] theorem State.take_nobat (t : Turn) (rest : List Turn) : (s.take t rest).nobat = s.nobat := rfl
@[simp] theorem State.take_curlim (t : Turn) (rest : List Turn) : (s.take t rest).curlim = s.curlim := rfl
@[simp] theorem State.take_slots (t : Turn) (rest : List Turn) : (s.take t rest).slots = s.slots := rfl
@[simp] theorem State.take_head (t : Turn) (rest : List Turn) : (s.take t rest).head = s.head := rfl
@[simp] theorem State.take_tail (t : Turn) (rest : List Turn) : (s.take t rest).tail = s.tail := rfl
@[simp] theorem State.take_waiters (t : Turn) (rest : List Turn) : (s.take t rest).waiters = s.waiters := rfl
@[simp] theorem State.take_adcHw (t : Turn) (rest : List Turn) : (s.take t rest).adcHw = s.adcHw := rfl
@[simp] theorem State.take_irqSeen (t : Turn) (rest : List Turn) : (s.take t rest).irqSeen = s.irqSeen := rfl
@[simp] theorem State.take_regs (t : Turn) (rest : List Turn) : (s.take t rest).regs = s.regs := rfl
@[simp] theorem State.take_outputs (t : Turn) (rest : List Turn) : (s.take t rest).outputs = s.outputs := rfl
@[simp] theorem State.take_returns (t : Turn) (rest : List Turn) : (s.take t rest).returns = s.returns := rfl
@[simp] theorem State.take_now (t : Turn) (rest : List Turn) : (s.take t rest).now = s.now + t.draws.elapsed := rfl
@[simp] theorem State.take_draws (t : Turn) (rest : List Turn) : (s.take t rest).draws = t.draws := rfl
@[simp] theorem State.take_port (t : Turn) (rest : List Turn) : (s.take t rest).port = rest := rfl
@[simp] theorem State.take_invoked (t : Turn) (rest : List Turn) : (s.take t rest).invoked = s.invoked := rfl

@[simp] theorem State.take_reg (t : Turn) (rest : List Turn) (a : Nat) : (s.take t rest).reg a = s.reg a := rfl

/-! ### `pushSlot` -/

@[simp] theorem pushSlot_cfg (r : AdcRequest) : (pushSlot r s).cfg = s.cfg := rfl
@[simp] theorem pushSlot_suspend (r : AdcRequest) : (pushSlot r s).suspend = s.suspend := rfl
@[simp] theorem pushSlot_flags (r : AdcRequest) : (pushSlot r s).flags = s.flags := rfl
@[simp] theorem pushSlot_lastCurlim (r : AdcRequest) : (pushSlot r s).lastCurlim = s.lastCurlim := rfl
@[simp] theorem pushSlot_usbRemovalCount (r : AdcRequest) : (pushSlot r s).usbRemovalCount = s.usbRemovalCount := rfl
@[simp] theorem pushSlot_coldplugDone (r : AdcRequest) : (pushSlot r s).coldplugDone = s.coldplugDone := rfl
@[simp] theorem pushSlot_onkeySeconds (r : AdcRequest) : (pushSlot r s).onkeySeconds = s.onkeySeconds := rfl
@[simp] theorem pushSlot_resumeSnapshot (r : AdcRequest) : (pushSlot r s).resumeSnapshot = s.resumeSnapshot := rfl
@[simp] theorem pushSlot_onkeyPressed (r : AdcRequest) : (pushSlot r s).onkeyPressed = s.onkeyPressed := rfl
@[simp] theorem pushSlot_suppressOnkey (r : AdcRequest) : (pushSlot r s).suppressOnkey = s.suppressOnkey := rfl
@[simp] theorem pushSlot_lastBatInsert (r : AdcRequest) : (pushSlot r s).lastBatInsert = s.lastBatInsert := rfl
@[simp] theorem pushSlot_rtcWantsTick (r : AdcRequest) : (pushSlot r s).rtcWantsTick = s.rtcWantsTick := rfl
@[simp] theorem pushSlot_savedMask (r : AdcRequest) : (pushSlot r s).savedMask = s.savedMask := rfl
@[simp] theorem pushSlot_probed (r : AdcRequest) : (pushSlot r s).probed = s.probed := rfl
@[simp] theorem pushSlot_standbyIssued (r : AdcRequest) : (pushSlot r s).standbyIssued = s.standbyIssued := rfl
@[simp] theorem pushSlot_irqDelivery (r : AdcRequest) : (pushSlot r s).irqDelivery = s.irqDelivery := rfl
@[simp] theorem pushSlot_disp (r : AdcRequest) : (pushSlot r s).disp = s.disp := rfl
@[simp] theorem pushSlot_dispatchReq (r : AdcRequest) : (pushSlot r s).dispatchReq = s.dispatchReq := rfl
@[simp] theorem pushSlot_pass (r : AdcRequest) : (pushSlot r s).pass = s.pass := rfl
@[simp] theorem pushSlot_nobat (r : AdcRequest) : (pushSlot r s).nobat = s.nobat := rfl
@[simp] theorem pushSlot_curlim (r : AdcRequest) : (pushSlot r s).curlim = s.curlim := rfl
@[simp] theorem pushSlot_slots (r : AdcRequest) : (pushSlot r s).slots = s.slots.set s.head (some r) := rfl
@[simp] theorem pushSlot_head (r : AdcRequest) : (pushSlot r s).head = s.bump s.head := rfl
@[simp] theorem pushSlot_tail (r : AdcRequest) : (pushSlot r s).tail = s.tail := rfl
@[simp] theorem pushSlot_waiters (r : AdcRequest) : (pushSlot r s).waiters = s.waiters := rfl
@[simp] theorem pushSlot_adcHw (r : AdcRequest) : (pushSlot r s).adcHw = s.adcHw := rfl
@[simp] theorem pushSlot_irqSeen (r : AdcRequest) : (pushSlot r s).irqSeen = s.irqSeen := rfl
@[simp] theorem pushSlot_regs (r : AdcRequest) : (pushSlot r s).regs = s.regs := rfl
@[simp] theorem pushSlot_outputs (r : AdcRequest) : (pushSlot r s).outputs = s.outputs := rfl
@[simp] theorem pushSlot_returns (r : AdcRequest) : (pushSlot r s).returns = s.returns := rfl
@[simp] theorem pushSlot_now (r : AdcRequest) : (pushSlot r s).now = s.now := rfl
@[simp] theorem pushSlot_draws (r : AdcRequest) : (pushSlot r s).draws = s.draws := rfl
@[simp] theorem pushSlot_port (r : AdcRequest) : (pushSlot r s).port = s.port := rfl
@[simp] theorem pushSlot_invoked (r : AdcRequest) : (pushSlot r s).invoked = s.invoked := rfl

@[simp] theorem pushSlot_reg (r : AdcRequest) (a : Nat) : (pushSlot r s).reg a = s.reg a := rfl

/-! ### `popSlot` -/

@[simp] theorem popSlot_cfg : (popSlot s).cfg = s.cfg := rfl
@[simp] theorem popSlot_suspend : (popSlot s).suspend = s.suspend := rfl
@[simp] theorem popSlot_flags : (popSlot s).flags = s.flags := rfl
@[simp] theorem popSlot_lastCurlim : (popSlot s).lastCurlim = s.lastCurlim := rfl
@[simp] theorem popSlot_usbRemovalCount : (popSlot s).usbRemovalCount = s.usbRemovalCount := rfl
@[simp] theorem popSlot_coldplugDone : (popSlot s).coldplugDone = s.coldplugDone := rfl
@[simp] theorem popSlot_onkeySeconds : (popSlot s).onkeySeconds = s.onkeySeconds := rfl
@[simp] theorem popSlot_resumeSnapshot : (popSlot s).resumeSnapshot = s.resumeSnapshot := rfl
@[simp] theorem popSlot_onkeyPressed : (popSlot s).onkeyPressed = s.onkeyPressed := rfl
@[simp] theorem popSlot_suppressOnkey : (popSlot s).suppressOnkey = s.suppressOnkey := rfl
@[simp] theorem popSlot_lastBatInsert : (popSlot s).lastBatInsert = s.lastBatInsert := rfl
@[simp] theorem popSlot_rtcWantsTick : (popSlot s).rtcWantsTick = s.rtcWantsTick := rfl
@[simp] theorem popSlot_savedMask : (popSlot s).savedMask = s.savedMask := rfl
@[simp] theorem popSlot_probed : (popSlot s).probed = s.probed := rfl
@[simp] theorem popSlot_standbyIssued : (popSlot s).standbyIssued = s.standbyIssued := rfl
@[simp] theorem popSlot_irqDelivery : (popSlot s).irqDelivery = s.irqDelivery := rfl
@[simp] theorem popSlot_disp : (popSlot s).disp = s.disp := rfl
@[simp] theorem popSlot_dispatchReq : (popSlot s).dispatchReq = s.dispatchReq := rfl
@[simp] theorem popSlot_pass : (popSlot s).pass = s.pass := rfl
@[simp] theorem popSlot_nobat : (popSlot s).nobat = s.nobat := rfl
@[simp] theorem popSlot_curlim : (popSlot s).curlim = s.curlim := rfl
@[simp] theorem popSlot_slots : (popSlot s).slots = s.slots.set s.tail none := rfl
@[simp] theorem popSlot_head : (popSlot s).head = s.head := rfl
@[simp] theorem popSlot_tail : (popSlot s).tail = s.bump s.tail := rfl
@[simp] theorem popSlot_waiters : (popSlot s).waiters = s.waiters := rfl
@[simp] theorem popSlot_adcHw : (popSlot s).adcHw = s.adcHw := rfl
@[simp] theorem popSlot_irqSeen : (popSlot s).irqSeen = s.irqSeen := rfl
@[simp] theorem popSlot_regs : (popSlot s).regs = s.regs := rfl
@[simp] theorem popSlot_outputs : (popSlot s).outputs = s.outputs := rfl
@[simp] theorem popSlot_returns : (popSlot s).returns = s.returns := rfl
@[simp] theorem popSlot_now : (popSlot s).now = s.now := rfl
@[simp] theorem popSlot_draws : (popSlot s).draws = s.draws := rfl
@[simp] theorem popSlot_port : (popSlot s).port = s.port := rfl
@[simp] theorem popSlot_invoked : (popSlot s).invoked = s.invoked := rfl

@[simp] theorem popSlot_reg (a : Nat) : (popSlot s).reg a = s.reg a := rfl

/-! ### `adcStart` -/

@[simp] theorem adcStart_cfg (r : AdcRequest) : (adcStart r s).cfg = s.cfg := rfl
@[simp] theorem adcStart_suspend (r : AdcRequest) : (adcStart r s).suspend = s.suspend := rfl
@[simp] theorem adcStart_flags (r : AdcRequest) : (adcStart r s).flags = s.flags := rfl
@[simp] theorem adcStart_lastCurlim (r : AdcRequest) : (adcStart r s).lastCurlim = s.lastCurlim := rfl
@[simp] theorem adcStart_usbRemovalCount (r : AdcRequest) : (adcStart r s).usbRemovalCount = s.usbRemovalCount := rfl
@[simp] theorem adcStart_coldplugDone (r : AdcRequest) : (adcStart r s).coldplugDone = s.coldplugDone := rfl
@[simp] theorem adcStart_onkeySeconds (r : AdcRequest) : (adcStart r s).onkeySeconds = s.onkeySeconds := rfl
@[simp] theorem adcStart_resumeSnapshot (r : AdcRequest) : (adcStart r s).resumeSnapshot = s.resumeSnapshot := rfl
@[simp] theorem adcStart_onkeyPressed (r : AdcRequest) : (adcStart r s).onkeyPressed = s.onkeyPressed := rfl
@[simp] theorem adcStart_suppressOnkey (r : AdcRequest) : (adcStart r s).suppressOnkey = s.suppressOnkey := rfl
@[simp] theorem adcStart_lastBatInsert (r : AdcRequest) : (adcStart r s).lastBatInsert = s.lastBatInsert := rfl
@[simp] theorem adcStart_rtcWantsTick (r : AdcRequest) : (adcStart r s).rtcWantsTick = s.rtcWantsTick := rfl
@[simp] theorem adcStart_savedMask (r : AdcRequest) : (adcStart r s).savedMask = s.savedMask := rfl
@[simp] theorem adcStart_probed (r : AdcRequest) : (adcStart r s).probed = s.probed := rfl
@[simp] theorem adcStart_standbyIssued (r : AdcRequest) : (adcStart r s).standbyIssued = s.standbyIssued := rfl
@[simp] theorem adcStart_irqDelivery (r : AdcRequest) : (adcStart r s).irqDelivery = s.irqDelivery := rfl
@[simp] theorem adcStart_disp (r : AdcRequest) : (adcStart r s).disp = s.disp := rfl
@[simp] theorem adcStart_dispatchReq (r : AdcRequest) : (adcStart r s).dispatchReq = s.dispatchReq := rfl
@[simp] theorem adcStart_pass (r : AdcRequest) : (adcStart r s).pass = s.pass := rfl
@[simp] theorem adcStart_nobat (r : AdcRequest) : (adcStart r s).nobat = s.nobat := rfl
@[simp] theorem adcStart_curlim (r : AdcRequest) : (adcStart r s).curlim = s.curlim := rfl
@[simp] theorem adcStart_slots (r : AdcRequest) : (adcStart r s).slots = s.slots := rfl
@[simp] theorem adcStart_head (r : AdcRequest) : (adcStart r s).head = s.head := rfl
@[simp] theorem adcStart_tail (r : AdcRequest) : (adcStart r s).tail = s.tail := rfl
@[simp] theorem adcStart_waiters (r : AdcRequest) : (adcStart r s).waiters = s.waiters := rfl
@[simp] theorem adcStart_adcHw (r : AdcRequest) : (adcStart r s).adcHw = .converting r.chan r.avg := rfl
@[simp] theorem adcStart_irqSeen (r : AdcRequest) : (adcStart r s).irqSeen = s.irqSeen := rfl
@[simp] theorem adcStart_regs (r : AdcRequest) : (adcStart r s).regs = Memory.write s.regs s.cfg.aAdcctl.toNat (adcctlByte s.cfg r.chan r.avg) := rfl
@[simp] theorem adcStart_outputs (r : AdcRequest) : (adcStart r s).outputs = s.outputs := rfl
@[simp] theorem adcStart_returns (r : AdcRequest) : (adcStart r s).returns = s.returns := rfl
@[simp] theorem adcStart_now (r : AdcRequest) : (adcStart r s).now = s.now := rfl
@[simp] theorem adcStart_draws (r : AdcRequest) : (adcStart r s).draws = s.draws := rfl
@[simp] theorem adcStart_port (r : AdcRequest) : (adcStart r s).port = s.port := rfl
@[simp] theorem adcStart_invoked (r : AdcRequest) : (adcStart r s).invoked = s.invoked := rfl

/-! ### `block` -/

@[simp] theorem block_cfg (w : Byte) (f : WaitFor) : (block w f s).cfg = s.cfg := rfl
@[simp] theorem block_suspend (w : Byte) (f : WaitFor) : (block w f s).suspend = s.suspend := rfl
@[simp] theorem block_flags (w : Byte) (f : WaitFor) : (block w f s).flags = s.flags := rfl
@[simp] theorem block_lastCurlim (w : Byte) (f : WaitFor) : (block w f s).lastCurlim = s.lastCurlim := rfl
@[simp] theorem block_usbRemovalCount (w : Byte) (f : WaitFor) : (block w f s).usbRemovalCount = s.usbRemovalCount := rfl
@[simp] theorem block_coldplugDone (w : Byte) (f : WaitFor) : (block w f s).coldplugDone = s.coldplugDone := rfl
@[simp] theorem block_onkeySeconds (w : Byte) (f : WaitFor) : (block w f s).onkeySeconds = s.onkeySeconds := rfl
@[simp] theorem block_resumeSnapshot (w : Byte) (f : WaitFor) : (block w f s).resumeSnapshot = s.resumeSnapshot := rfl
@[simp] theorem block_onkeyPressed (w : Byte) (f : WaitFor) : (block w f s).onkeyPressed = s.onkeyPressed := rfl
@[simp] theorem block_suppressOnkey (w : Byte) (f : WaitFor) : (block w f s).suppressOnkey = s.suppressOnkey := rfl
@[simp] theorem block_lastBatInsert (w : Byte) (f : WaitFor) : (block w f s).lastBatInsert = s.lastBatInsert := rfl
@[simp] theorem block_rtcWantsTick (w : Byte) (f : WaitFor) : (block w f s).rtcWantsTick = s.rtcWantsTick := rfl
@[simp] theorem block_savedMask (w : Byte) (f : WaitFor) : (block w f s).savedMask = s.savedMask := rfl
@[simp] theorem block_probed (w : Byte) (f : WaitFor) : (block w f s).probed = s.probed := rfl
@[simp] theorem block_standbyIssued (w : Byte) (f : WaitFor) : (block w f s).standbyIssued = s.standbyIssued := rfl
@[simp] theorem block_irqDelivery (w : Byte) (f : WaitFor) : (block w f s).irqDelivery = s.irqDelivery := rfl
@[simp] theorem block_disp (w : Byte) (f : WaitFor) : (block w f s).disp = s.disp := rfl
@[simp] theorem block_dispatchReq (w : Byte) (f : WaitFor) : (block w f s).dispatchReq = s.dispatchReq := rfl
@[simp] theorem block_pass (w : Byte) (f : WaitFor) : (block w f s).pass = s.pass := rfl
@[simp] theorem block_nobat (w : Byte) (f : WaitFor) : (block w f s).nobat = s.nobat := rfl
@[simp] theorem block_curlim (w : Byte) (f : WaitFor) : (block w f s).curlim = s.curlim := rfl
@[simp] theorem block_slots (w : Byte) (f : WaitFor) : (block w f s).slots = s.slots := rfl
@[simp] theorem block_head (w : Byte) (f : WaitFor) : (block w f s).head = s.head := rfl
@[simp] theorem block_tail (w : Byte) (f : WaitFor) : (block w f s).tail = s.tail := rfl
@[simp] theorem block_waiters (w : Byte) (f : WaitFor) : (block w f s).waiters = s.waiters ++ [⟨w, f, none⟩] := rfl
@[simp] theorem block_adcHw (w : Byte) (f : WaitFor) : (block w f s).adcHw = s.adcHw := rfl
@[simp] theorem block_irqSeen (w : Byte) (f : WaitFor) : (block w f s).irqSeen = s.irqSeen := rfl
@[simp] theorem block_regs (w : Byte) (f : WaitFor) : (block w f s).regs = s.regs := rfl
@[simp] theorem block_outputs (w : Byte) (f : WaitFor) : (block w f s).outputs = s.outputs := rfl
@[simp] theorem block_returns (w : Byte) (f : WaitFor) : (block w f s).returns = s.returns := rfl
@[simp] theorem block_now (w : Byte) (f : WaitFor) : (block w f s).now = s.now := rfl
@[simp] theorem block_draws (w : Byte) (f : WaitFor) : (block w f s).draws = s.draws := rfl
@[simp] theorem block_port (w : Byte) (f : WaitFor) : (block w f s).port = s.port := rfl
@[simp] theorem block_invoked (w : Byte) (f : WaitFor) : (block w f s).invoked = s.invoked := rfl

@[simp] theorem block_reg (w : Byte) (f : WaitFor) (a : Nat) : (block w f s).reg a = s.reg a := rfl

/-! ### `standby` -/

@[simp] theorem standby_cfg : (standby s).cfg = s.cfg := rfl
@[simp] theorem standby_suspend : (standby s).suspend = s.suspend := rfl
@[simp] theorem standby_flags : (standby s).flags = s.flags := rfl
@[simp] theorem standby_lastCurlim : (standby s).lastCurlim = s.lastCurlim := rfl
@[simp] theorem standby_usbRemovalCount : (standby s).usbRemovalCount = s.usbRemovalCount := rfl
@[simp] theorem standby_coldplugDone : (standby s).coldplugDone = s.coldplugDone := rfl
@[simp] theorem standby_onkeySeconds : (standby s).onkeySeconds = s.onkeySeconds := rfl
@[simp] theorem standby_resumeSnapshot : (standby s).resumeSnapshot = s.resumeSnapshot := rfl
@[simp] theorem standby_onkeyPressed : (standby s).onkeyPressed = s.onkeyPressed := rfl
@[simp] theorem standby_suppressOnkey : (standby s).suppressOnkey = s.suppressOnkey := rfl
@[simp] theorem standby_lastBatInsert : (standby s).lastBatInsert = s.lastBatInsert := rfl
@[simp] theorem standby_rtcWantsTick : (standby s).rtcWantsTick = s.rtcWantsTick := rfl
@[simp] theorem standby_savedMask : (standby s).savedMask = s.savedMask := rfl
@[simp] theorem standby_probed : (standby s).probed = s.probed := rfl
@[simp] theorem standby_standbyIssued : (standby s).standbyIssued = true := rfl
@[simp] theorem standby_irqDelivery : (standby s).irqDelivery = s.irqDelivery := rfl
@[simp] theorem standby_disp : (standby s).disp = s.disp := rfl
@[simp] theorem standby_dispatchReq : (standby s).dispatchReq = s.dispatchReq := rfl
@[simp] theorem standby_pass : (standby s).pass = s.pass := rfl
@[simp] theorem standby_nobat : (standby s).nobat = s.nobat := rfl
@[simp] theorem standby_curlim : (standby s).curlim = s.curlim := rfl
@[simp] theorem standby_slots : (standby s).slots = s.slots := rfl
@[simp] theorem standby_head : (standby s).head = s.head := rfl
@[simp] theorem standby_tail : (standby s).tail = s.tail := rfl
@[simp] theorem standby_waiters : (standby s).waiters = s.waiters := rfl
@[simp] theorem standby_adcHw : (standby s).adcHw = s.adcHw := rfl
@[simp] theorem standby_irqSeen : (standby s).irqSeen = s.irqSeen := rfl
@[simp] theorem standby_regs : (standby s).regs = Memory.write s.regs s.cfg.aStandby.toNat (s.reg s.cfg.aStandby.toNat ||| s.cfg.standbyCmd) := rfl
@[simp] theorem standby_outputs : (standby s).outputs = s.outputs := rfl
@[simp] theorem standby_returns : (standby s).returns = s.returns := rfl
@[simp] theorem standby_now : (standby s).now = s.now := rfl
@[simp] theorem standby_draws : (standby s).draws = s.draws := rfl
@[simp] theorem standby_port : (standby s).port = s.port := rfl
@[simp] theorem standby_invoked : (standby s).invoked = s.invoked := rfl

end Sys2Proof.Machine
end

