-- ==== Sys2Proof/Laws/Memory.lean ====
section
/-! SUPPORT. The register space: what a write leaves (`read_write`), and that every memory operation keeps the canonical
form (`wf_write`). -/

namespace Sys2Proof.Machine

theorem Memory.read_above {m : Memory} {a : Nat} (h : Memory.above a m = true) : Memory.read m a = unlisted := by
  cases m with
  | nil => rfl
  | cons c m =>
    have hc : a < c.1 := by simpa [Memory.above] using (List.all_eq_true.mp h) c (by simp)
    simp [Memory.read, hc]

theorem Memory.above_mono {m : Memory} {a b : Nat} (hab : a < b) (h : Memory.above b m = true) :
    Memory.above a m = true := by
  simp only [Memory.above, List.all_eq_true, decide_eq_true_eq] at *
  intro c hc
  exact hab.trans (h c hc)

theorem Memory.wf_cons {a : Nat} {v : Byte} {m : Memory} :
    Memory.wf ((a, v) :: m) = true ↔
      a < 256 ∧ v ≠ unlisted ∧ Memory.above a m = true ∧ Memory.wf m = true := by
  simp [Memory.wf, and_assoc]

theorem Memory.above_entry {b a : Nat} {v : Byte} {m : Memory} (hba : b < a) (h : Memory.above b m = true) :
    Memory.above b (Memory.entry a v m) = true := by
  unfold Memory.entry
  split
  · exact h
  · simpa [Memory.above, hba] using h

theorem Memory.above_insert {m : Memory} {b a : Nat} {v : Byte} (hba : b < a) (h : Memory.above b m = true) :
    Memory.above b (Memory.insert m a v) = true := by
  induction m with
  | nil => exact Memory.above_entry hba h
  | cons c m ih =>
    obtain ⟨d, w⟩ := c
    have hd : b < d ∧ Memory.above b m = true := by simpa [Memory.above] using h
    unfold Memory.insert
    split
    · exact Memory.above_entry hba h
    · split
      · exact Memory.above_entry hba hd.2
      · have := ih hd.2
        simp only [Memory.above, List.all_cons, decide_eq_true_eq, Bool.and_eq_true]
        exact ⟨hd.1, this⟩

theorem Memory.wf_entry {a : Nat} {v : Byte} {m : Memory} (ha : a < 256) (hm : Memory.wf m = true)
    (h : Memory.above a m = true) : Memory.wf (Memory.entry a v m) = true := by
  unfold Memory.entry
  split
  · exact hm
  · exact Memory.wf_cons.mpr ⟨ha, by assumption, h, hm⟩

theorem Memory.wf_insert {m : Memory} {a : Nat} {v : Byte} (ha : a < 256) (h : Memory.wf m = true) :
    Memory.wf (Memory.insert m a v) = true := by
  induction m with
  | nil => exact Memory.wf_entry ha rfl rfl
  | cons c m ih =>
    obtain ⟨d, w⟩ := c
    obtain ⟨hd, hw, hab, hm⟩ := Memory.wf_cons.mp h
    unfold Memory.insert
    split
    · rename_i had
      refine Memory.wf_entry ha h ?_
      simpa [Memory.above, had] using Memory.above_mono had hab
    · split
      · rename_i _ had
        subst had
        exact Memory.wf_entry ha hm hab
      · exact Memory.wf_cons.mpr ⟨hd, hw, Memory.above_insert (by omega) hab, ih hm⟩

/-- A write keeps the canonical form. -/
theorem Memory.wf_write {m : Memory} (a : Nat) (v : Byte) (h : Memory.wf m = true) :
    Memory.wf (Memory.write m a v) = true := by
  unfold Memory.write
  split
  · exact Memory.wf_insert (by assumption) h
  · exact h

theorem Memory.read_entry {a b : Nat} {v : Byte} {m : Memory} (h : Memory.above a m = true) :
    Memory.read (Memory.entry a v m) b = if b = a then v else Memory.read m b := by
  unfold Memory.entry
  split
  · rename_i hv
    split
    · rename_i hb
      rw [hb, Memory.read_above h, hv]
    · rfl
  · simp only [Memory.read]
    rcases Nat.lt_trichotomy b a with hba | hba | hba
    · rw [if_pos hba, if_neg (by omega), Memory.read_above (Memory.above_mono hba h)]
    · simp [hba]
    · rw [if_neg (by omega), if_neg (by omega)]

theorem Memory.read_insert {m : Memory} {a b : Nat} {v : Byte} (h : Memory.wf m = true) :
    Memory.read (Memory.insert m a v) b = if b = a then v else Memory.read m b := by
  induction m with
  | nil => exact Memory.read_entry rfl
  | cons c m ih =>
    obtain ⟨d, w⟩ := c
    obtain ⟨-, -, hab, hm⟩ := Memory.wf_cons.mp h
    unfold Memory.insert
    split
    · rename_i had
      refine Memory.read_entry ?_
      simpa [Memory.above, had] using Memory.above_mono had hab
    · split
      · rename_i _ had
        subst had
        rw [Memory.read_entry hab]
        split
        · rfl
        · rename_i _ hb
          simp only [Memory.read, if_neg hb]
          split
          · rename_i hlt
            exact Memory.read_above (Memory.above_mono hlt hab)
          · rfl
      · rename_i had had'
        simp only [Memory.read, ih hm]
        split
        · rw [if_neg (by omega)]
        · split
          · rw [if_neg (by omega)]
          · rfl

/-- What a register reads as after a write: the written one the value, every other one as before. -/
theorem Memory.read_write {m : Memory} {a b : Nat} {v : Byte} (h : Memory.wf m = true) :
    Memory.read (Memory.write m a v) b = if b = a ∧ a < 256 then v else Memory.read m b := by
  unfold Memory.write
  split
  · rename_i ha
    simp [Memory.read_insert h, ha]
  · rename_i ha
    simp [ha]

/-- Reading register `b` after register `a` was written. -/
theorem State.setReg_reg {s : State} {a b : Nat} {v : Byte} (h : Memory.wf s.regs = true) :
    (s.setReg a v).reg b = if b = a ∧ a < 256 then v else s.reg b := Memory.read_write h

theorem State.setReg_reg_same {s : State} {a : Nat} {v : Byte} (h : Memory.wf s.regs = true) (ha : a < 256) :
    (s.setReg a v).reg a = v := by simp [State.setReg_reg h, ha]

theorem State.setReg_reg_ne {s : State} {a b : Nat} {v : Byte} (h : Memory.wf s.regs = true) (hb : b ≠ a) :
    (s.setReg a v).reg b = s.reg b := by simp [State.setReg_reg h, hb]

theorem State.setReg_wf {s : State} {a : Nat} {v : Byte} (h : Memory.wf s.regs = true) :
    Memory.wf (s.setReg a v).regs = true := Memory.wf_write a v h

theorem State.setBitsAt_wf {s : State} {a : Nat} {m : Byte} (h : Memory.wf s.regs = true) :
    Memory.wf (s.setBitsAt a m).regs = true := Memory.wf_write _ _ h

theorem State.clearBitsAt_wf {s : State} {a : Nat} {m : Byte} (h : Memory.wf s.regs = true) :
    Memory.wf (s.clearBitsAt a m).regs = true := Memory.wf_write _ _ h

theorem State.setMaskedAt_wf {s : State} {a : Nat} {m v : Byte} (h : Memory.wf s.regs = true) :
    Memory.wf (s.setMaskedAt a m v).regs = true := Memory.wf_write _ _ h

theorem State.writeGroup_wf {s : State} {a : Nat} {v : Bytes5} (h : Memory.wf s.regs = true) :
    Memory.wf (s.writeGroup a v).regs = true :=
  State.setReg_wf (State.setReg_wf (State.setReg_wf (State.setReg_wf (State.setReg_wf h))))

theorem State.clearInt_wf {s : State} {a n i : Nat} (h : Memory.wf s.regs = true) :
    Memory.wf (s.clearInt a n i).regs = true := by
  unfold State.clearInt
  split
  · exact State.setReg_wf h
  · exact h

theorem State.settleAfter_regs (s : State) (a n : Nat) : (s.settleAfter a n).regs = s.regs := by
  unfold State.settleAfter
  split <;> rfl

theorem State.clearCovered_wf {s : State} {a n : Nat} (h : Memory.wf s.regs = true) :
    Memory.wf (s.clearCovered a n).regs = true := by
  unfold State.clearCovered
  rw [State.settleAfter_regs]
  exact State.clearInt_wf (State.clearInt_wf (State.clearInt_wf (State.clearInt_wf (State.clearInt_wf h))))

theorem State.hostStore_wf {s : State} {a : Nat} {v j : Byte} (h : Memory.wf s.regs = true) :
    Memory.wf (s.hostStore a v j).regs = true := by
  unfold State.hostStore State.adcctlWritten State.standbyWritten
  split
  · exact State.setReg_wf h
  · split
    · split <;> exact State.setReg_wf h
    · split <;> exact State.setReg_wf h

theorem State.hostStoreBlock_wf {s : State} {a : Nat} {data junk : List Byte} {stored : List Bool}
    (h : Memory.wf s.regs = true) : Memory.wf (s.hostStoreBlock a data junk stored).regs = true := by
  induction data generalizing s a junk stored with
  | nil => exact h
  | cons v data ih =>
    unfold State.hostStoreBlock
    apply ih
    split
    · exact State.hostStore_wf h
    · exact h

/-- The register space after reset is in canonical form. -/
theorem reset_wf : Memory.wf State.reset.regs = true := rfl

end Sys2Proof.Machine
end

