-- ==== Sys2Proof/Laws/Ops.lean ====
section
/-! SUPPORT. What the frames of the meanings can do, said once, the address map (20_memory.md R78), the interrupt line
(10_state.md R58) and the accesses to one register or one group. -/

namespace Sys2Proof.Machine

/-! ### The frames in which the meanings run -/

theorem powered_next {s t : State} {r : Result} :
    powered s r = .next t ↔ s.standbyIssued = false ∧ r = .next t := by
  unfold powered
  cases s.standbyIssued <;> simp

theorem powered_eq {s : State} {r : Result} (h : s.standbyIssued = false) : powered s r = r := by simp [powered, h]

theorem hostCommand_next {s t : State} {c : Option Byte} {body : State → State} :
    hostCommand s c body = .next t ↔
      s.standbyIssued = false ∧ t = if s.probed then body s else s.raise c .access := by
  rw [hostCommand, powered_next, Host.Outcome.next.injEq]
  exact and_congr_right fun _ => eq_comm

theorem hostCommand_eq {s : State} {c : Option Byte} {body : State → State} (h : s.standbyIssued = false)
    (hp : s.probed = true) : hostCommand s c body = .next (body s) := by simp [hostCommand, powered_eq h, hp]

theorem throughGate_open {s : State} {c : Option Byte} {body : State → State} (h : s.accessAllowed = true) :
    throughGate c body s = body s := by simp [throughGate, h]

theorem throughGate_closed {s : State} {c : Option Byte} {body : State → State} (h : s.accessAllowed = false) :
    throughGate c body s = s.violation c := by simp [throughGate, h]

theorem internalOp_next {s t : State} {r : Result} :
    internalOp s r = .next t ↔ s.standbyIssued = false ∧ s.accessAllowed = true ∧ r = .next t := by
  unfold internalOp
  rw [powered_next]
  cases s.accessAllowed <;> simp

theorem internalOp_eq {s : State} {r : Result} (h : s.Live) : internalOp s r = r := by
  simp [internalOp, powered_eq h.1, h.2]

theorem eventStep_next {s t : State} {e : Event} {rule : State → State} :
    eventStep e rule s = .next t ↔
      s.standbyIssued = false ∧ s.accessAllowed = true ∧ t = advance e (rule s) := by
  rw [eventStep, internalOp_next, Host.Outcome.next.injEq]
  exact and_congr_right fun _ => and_congr_right fun _ => eq_comm

theorem eventStep_eq {s : State} {e : Event} {rule : State → State} (h : s.Live) :
    eventStep e rule s = .next (advance e (rule s)) := by simp [eventStep, internalOp_eq h]

/-- A rule that leaves configuration and pass alone, as an event: its effect, and the pass goes on. -/
theorem advance_eq {e : Event} {s t : State} (hc : t.cfg = s.cfg) (hp : t.pass = s.pass) :
    advance e t = { t with pass := passAfter e s } := by
  simp [advance, State.setNext, passAfter, hc, hp]

/-! ### The address map -/

theorem distinct_nodup : ∀ {l : List Nat}, distinct l = true → l.Nodup
  | [], _ => List.nodup_nil
  | a :: l, h => by
    simp only [distinct, Bool.and_eq_true, Bool.not_eq_true', List.elem_eq_mem, decide_eq_false_iff_not] at h
    exact List.nodup_cons.mpr ⟨h.1, distinct_nodup h.2⟩

theorem Config.wf_map {c : Config} (h : c.wf = true) : c.mapOk = true := by
  simp only [Config.wf, Bool.and_eq_true] at h
  simp only [h]

theorem Config.wf_layout {c : Config} (h : c.wf = true) : c.layoutOk = true := by
  simp only [Config.wf, Bool.and_eq_true] at h
  simp only [h]

theorem Config.wf_depth {c : Config} (h : c.wf = true) : 2 ≤ c.depth := by
  simp only [Config.wf, Bool.and_eq_true, decide_eq_true_eq] at h
  simp only [h]

theorem Config.int_bound {c : Config} (h : c.wf = true) : c.aInt.toNat + 4 ≤ 255 := by
  have := Config.wf_map h
  simp only [Config.mapOk, Bool.and_eq_true, decide_eq_true_eq] at this
  exact this.1.2

theorem Config.intm_bound {c : Config} (h : c.wf = true) : c.aIntm.toNat + 4 ≤ 255 := by
  have := Config.wf_map h
  simp only [Config.mapOk, Bool.and_eq_true, decide_eq_true_eq] at this
  exact this.2

/-- The named registers are pairwise distinct. The places: 0 to 4 INT, 5 to 9 INTM, 10 ADCCTL, 11 ADCRES_HI, 12 ADCRES_LO,
13 USBLIM, 14 CHGCTL, 15 FASTCHG, 16 GPO, 17 PWRSTAT, 18 BATSTAT, 19 STANDBY. -/
theorem Config.address_ne {c : Config} (h : c.wf = true) (i j : Nat) (hi : i < 20) (hj : j < 20) (hij : i ≠ j) :
    c.addresses.getD i 0 ≠ c.addresses.getD j 0 := by
  have hm := Config.wf_map h
  simp only [Config.mapOk, Bool.and_eq_true] at hm
  have hn := distinct_nodup hm.1.1
  have hl : c.addresses.length = 20 := rfl
  rw [List.getD_eq_getElem _ _ (by omega), List.getD_eq_getElem _ _ (by omega)]
  exact fun he => hij ((List.Nodup.getElem_inj_iff hn).mp he)

/-- The two groups of five do not meet. -/
theorem Config.groups_ne {c : Config} (h : c.wf = true) (i j : Nat) (hi : i < 5) (hj : j < 5) :
    c.aInt.toNat + i ≠ c.aIntm.toNat + j := by
  have := Config.address_ne h i (j + 5) (by omega) (by omega) (by omega)
  interval_cases i <;> interval_cases j <;> exact this

/-- A register outside the groups is not one of INT. -/
theorem Config.int_ne {c : Config} (h : c.wf = true) (i k : Nat) (hi : i < 5) (hk : 10 ≤ k) (hk' : k < 20) :
    c.aInt.toNat + i ≠ c.addresses.getD k 0 := by
  have := Config.address_ne h i k (by omega) (by omega) (by omega)
  interval_cases i <;> exact this

/-- A register outside the groups is not one of INTM. -/
theorem Config.intm_ne {c : Config} (h : c.wf = true) (i k : Nat) (hi : i < 5) (hk : 10 ≤ k) (hk' : k < 20) :
    c.aIntm.toNat + i ≠ c.addresses.getD k 0 := by
  have := Config.address_ne h (i + 5) k (by omega) (by omega) (by omega)
  interval_cases i <;> exact this

/-- Distinct events have distinct places in the block. -/
theorem Config.blockBit_inj {c : Config} (h : c.wf = true) {e f : Event} (he : c.blockBit e = c.blockBit f) :
    e.rank = f.rank := by
  have hn := distinct_nodup (by simpa only [Config.layoutOk] using Config.wf_layout h)
  rw [List.nodup_iff_injective_get] at hn
  have hl : (c.statusBit.toList.map fun p => 8 * p.byte.val + p.bit.val).length = 32 := by simp
  have := @hn (e.rank.cast hl.symm) (f.rank.cast hl.symm) (by
    simpa [Config.blockBit, Config.pos, Vector.get] using he)
  exact Fin.ext (by simpa using congrArg Fin.val this)

/-! ### Registers -/

theorem State.setBitsAt_reg {s : State} {a b : Nat} {m : Byte} (h : Memory.wf s.regs = true) :
    (s.setBitsAt a m).reg b = if b = a ∧ a < 256 then s.reg a ||| m else s.reg b := State.setReg_reg h

theorem State.clearBitsAt_reg {s : State} {a b : Nat} {m : Byte} (h : Memory.wf s.regs = true) :
    (s.clearBitsAt a m).reg b = if b = a ∧ a < 256 then s.reg a &&& ~~~m else s.reg b := State.setReg_reg h

theorem State.setMaskedAt_reg {s : State} {a b : Nat} {m v : Byte} (h : Memory.wf s.regs = true) :
    (s.setMaskedAt a m v).reg b = if b = a ∧ a < 256 then (s.reg a &&& ~~~m) ||| (v &&& m) else s.reg b :=
  State.setReg_reg h

/-- Byte `i` of five. -/
def byteOf (v : Bytes5) (i : Nat) : Byte := [v.b0, v.b1, v.b2, v.b3, v.b4].getD i 0

/-- A block write of five registers (20_memory.md R72). -/
theorem State.writeGroup_reg {s : State} {a b : Nat} {v : Bytes5} (h : Memory.wf s.regs = true) (ha : a + 4 < 256) :
    (s.writeGroup a v).reg b = if a ≤ b ∧ b < a + 5 then byteOf v (b - a) else s.reg b := by
  have h1 := State.setReg_wf (a := a) (v := v.b0) h
  have h2 := State.setReg_wf (a := a + 1) (v := v.b1) h1
  have h3 := State.setReg_wf (a := a + 2) (v := v.b2) h2
  have h4 := State.setReg_wf (a := a + 3) (v := v.b3) h3
  rw [State.writeGroup, State.setReg_reg h4, State.setReg_reg h3, State.setReg_reg h2, State.setReg_reg h1,
    State.setReg_reg h]
  by_cases hb : a ≤ b ∧ b < a + 5
  · obtain ⟨k, rfl⟩ := Nat.exists_eq_add_of_le hb.1
    have hk : k < 5 := by omega
    rw [if_pos hb, Nat.add_sub_cancel_left]
    interval_cases k
    · simp [byteOf]; omega
    · simp [byteOf]; omega
    · simp [byteOf]; omega
    · simp [byteOf]; omega
    · simp [byteOf]; omega
  · rw [if_neg hb, if_neg (by omega), if_neg (by omega), if_neg (by omega), if_neg (by omega), if_neg (by omega)]

theorem State.writeGroup_eq (s : State) (a : Nat) (v : Bytes5) :
    s.writeGroup a v = { s with regs := (s.writeGroup a v).regs } := by
  simp only [State.writeGroup, State.setReg]

/-- A register operation changes registers only. -/
theorem State.setReg_eq (s : State) (a : Nat) (v : Byte) : s.setReg a v = { s with regs := (s.setReg a v).regs } := rfl

/-- `irq_line` is decided by the ten interrupt registers. -/
theorem State.irqLine_congr {s t : State} (hc : t.cfg = s.cfg)
    (h : ∀ i < 5, t.reg (s.intAt i) = s.reg (s.intAt i) ∧ t.reg (s.intmAt i) = s.reg (s.intmAt i)) :
    t.irqLine = s.irqLine := by
  have hi : ∀ i, t.intAt i = s.intAt i := fun i => by simp [State.intAt, hc]
  have hm : ∀ i, t.intmAt i = s.intmAt i := fun i => by simp [State.intmAt, hc]
  have ha : ∀ i < 5, t.asserts i = s.asserts i := fun i hi5 => by
    simp only [State.asserts, hi, hm, (h i hi5).1, (h i hi5).2]
  simp only [State.irqLine, ha 0 (by omega), ha 1 (by omega), ha 2 (by omega), ha 3 (by omega), ha 4 (by omega)]

theorem State.settleAfter_eq (s : State) (a n : Nat) :
    s.settleAfter a n = { s with irqSeen := if s.touchesLine a n then s.irqSeen && s.irqLine else s.irqSeen } := by
  unfold State.settleAfter State.settleLine
  split <;> rfl

end Sys2Proof.Machine
end

