-- ==== Sys2Proof/Laws/Charger.lean ====
section
/-! SUPPORT. What each charger operation leaves, said once (41_charger_fsm.md R170 to R177, R180). -/

namespace Sys2Proof.Machine

/-- CHARGE_ENABLE as one update (R174). -/
theorem chargeEnable_eq (on : Bool) (s : State) :
    chargeEnable on s =
      { s with
        flags := { s.flags with chgEnabled := if s.cfg.featCharger then on else s.flags.chgEnabled }
        outputs := s.outputs ++ enableNotes s on
        regs :=
          if s.cfg.featCharger then
            Memory.write s.regs s.cfg.aChgctl.toNat (enableByte s.cfg on (s.reg s.cfg.aChgctl.toNat))
          else s.regs } := by
  unfold chargeEnable enableNotes enableByte
  cases s.cfg.featCharger
  · simp
  · cases on
    · simp only [Bool.false_eq_true, if_false, if_true]
      split <;> simp [State.clearBitsAt, State.setReg, State.emit, State.setChgEnabled, State.reg]
    · simp only [if_true]
      split <;> simp [State.setBitsAt, State.setReg, State.emit, State.setChgEnabled, State.reg]

theorem chargeEnable_wf {on : Bool} {s : State} (h : Memory.wf s.regs = true) :
    Memory.wf (chargeEnable on s).regs = true := by
  rw [chargeEnable_eq]
  dsimp only
  split
  · exact Memory.wf_write _ _ h
  · exact h

/-- The registers after CHARGE_ENABLE. -/
theorem chargeEnable_reg {on : Bool} {s : State} {b : Nat} (h : Memory.wf s.regs = true) :
    (chargeEnable on s).reg b =
      if b = s.cfg.aChgctl.toNat then enableByte s.cfg on (s.reg s.cfg.aChgctl.toNat) else s.reg b := by
  have hc := s.cfg.aChgctl.isLt
  rw [chargeEnable_eq, State.reg]
  dsimp only
  split
  · rw [Memory.read_write h]
    simp [hc, State.reg]
  · rename_i hf
    split
    · rename_i hb
      simp [enableByte, hf, hb, State.reg]
    · rfl

theorem autoresumeHandshake_eq (s : State) :
    autoresumeHandshake s = { s with regs := (autoresumeHandshake s).regs } := by
  simp only [autoresumeHandshake, State.setBitsAt, State.clearBitsAt, State.setReg]

theorem autoresumeHandshake_wf {s : State} (h : Memory.wf s.regs = true) :
    Memory.wf (autoresumeHandshake s).regs = true :=
  State.setBitsAt_wf (State.setBitsAt_wf (State.clearBitsAt_wf h))

/-- The registers after the handshake (R175). -/
theorem autoresumeHandshake_reg {s : State} {b : Nat} (h : Memory.wf s.regs = true) :
    (autoresumeHandshake s).reg b =
      if b = s.cfg.aChgctl.toNat then handshakeByte s.cfg (s.reg s.cfg.aChgctl.toNat) else s.reg b := by
  have hc := s.cfg.aChgctl.isLt
  have h1 := State.clearBitsAt_wf (a := s.cfg.aChgctl.toNat) (m := s.cfg.autores) h
  have h2 := State.setBitsAt_wf (a := s.cfg.aChgctl.toNat) (m := s.cfg.resumeBit) h1
  rw [autoresumeHandshake, State.setBitsAt_reg h2]
  simp only [State.setBitsAt_reg h1, State.clearBitsAt_reg h, handshakeByte]
  split <;> simp_all

/-- SET_CURRENT_LIMIT (R172). -/
theorem setCurrentLimit_spec {s : State} (ma : Nat) (h : s.Sound) :
    LimitSet ma [] s (setCurrentLimit ma s) ∧ Memory.wf (setCurrentLimit ma s).regs = true := by
  obtain ⟨hc, hm⟩ := h
  have hne : s.cfg.aUsblim.toNat ≠ s.cfg.aChgctl.toNat :=
    Config.address_ne hc 13 14 (by decide) (by decide) (by decide)
  have hu := s.cfg.aUsblim.isLt
  have h1 := State.setMaskedAt_wf (a := s.cfg.aUsblim.toNat) (m := s.cfg.usblimMask)
    (v := (quantize ma).code s.cfg) hm
  have h2 := chargeEnable_wf (on := (quantize ma).capable) h1
  have hreg : ∀ b, (setCurrentLimit ma s).reg b =
      if b = s.cfg.aChgctl.toNat then
        handshakeByte s.cfg (enableByte s.cfg (quantize ma).capable (s.reg s.cfg.aChgctl.toNat))
      else if b = s.cfg.aUsblim.toNat then
        (s.reg s.cfg.aUsblim.toNat &&& ~~~s.cfg.usblimMask) ||| ((quantize ma).code s.cfg &&& s.cfg.usblimMask)
      else s.reg b := by
    intro b
    have hcfg : ∀ t : State, (chargeEnable (quantize ma).capable t).cfg = t.cfg := fun t => by rw [chargeEnable_eq]
    have hcfg' : ∀ a m v, (s.setMaskedAt a m v).cfg = s.cfg := fun _ _ _ => rfl
    rw [setCurrentLimit, autoresumeHandshake_reg h2]
    simp only [chargeEnable_reg h1, State.setMaskedAt_reg hm, hcfg, hcfg', if_neg hne.symm, hu, and_true, if_true]
    split
    · simp
    · rfl
  refine ⟨⟨?_, ?_, ?_, ?_, ?_, ?_, ?_⟩, autoresumeHandshake_wf h2⟩
  · rw [hreg, if_neg hne, if_pos rfl]
  · rw [hreg, if_pos rfl]
  · intro b hb
    simp only [List.append_nil, List.mem_cons, List.not_mem_nil, or_false, not_or] at hb
    rw [hreg, if_neg hb.2, if_neg hb.1]
  all_goals
    rw [setCurrentLimit, autoresumeHandshake_eq, chargeEnable_eq]
    rfl

/-- A limit set on a state that differs in some registers only. -/
theorem LimitSet.of_regs {ma : Nat} {l : List Nat} {s m t : State} (hm : m = { s with regs := m.regs })
    (hr : SameRegsBut l s m) (hu : s.cfg.aUsblim.toNat ∉ l) (hc : s.cfg.aChgctl.toNat ∉ l)
    (h : LimitSet ma [] m t) : LimitSet ma l s t := by
  rw [hm] at h
  obtain ⟨h1, h2, h3, h4, h5, h6, h7⟩ := h
  refine ⟨?_, ?_, ?_, h4, h5, h6, h7⟩
  · rw [h1]
    exact congrArg (fun v => (v &&& ~~~s.cfg.usblimMask) ||| _) (hr _ hu)
  · rw [h2]
    exact congrArg (fun v => handshakeByte s.cfg (enableByte s.cfg _ v)) (hr _ hc)
  · intro a ha
    simp only [List.cons_append, List.nil_append, List.mem_cons, not_or] at ha
    rw [h3 a (by simp [ha.1, ha.2.1])]
    exact hr a ha.2.2

/-- A last register write after a limit was set. -/
theorem LimitSet.setReg {ma a : Nat} {v : Byte} {l : List Nat} {s t : State} (h : LimitSet ma l s t)
    (hw : Memory.wf t.regs = true) (hu : s.cfg.aUsblim.toNat ≠ a) (hc : s.cfg.aChgctl.toNat ≠ a) :
    LimitSet ma (a :: l) s (t.setReg a v) := by
  obtain ⟨h1, h2, h3, h4, h5, h6, h7⟩ := h
  refine ⟨?_, ?_, ?_, h4, h5, h6, ?_⟩
  · rw [State.setReg_reg_ne hw hu, h1]
  · rw [State.setReg_reg_ne hw hc, h2]
  · intro b hb
    simp only [List.cons_append, List.nil_append, List.mem_cons, not_or] at hb
    rw [State.setReg_reg_ne hw hb.2.2.1, h3 b (by simp [hb.1, hb.2.1, hb.2.2.2])]
  · conv_lhs => rw [h7]
    rfl

/-- APPLY_POLICY (R171). -/
theorem applyPolicy_spec {s : State} (type : ChargerType) (h : s.Sound) :
    PolicySet type s (applyPolicy type s) ∧ Memory.wf (applyPolicy type s).regs = true := by
  have hm := h.2
  have huf : s.cfg.aUsblim.toNat ≠ s.cfg.aFastchg.toNat :=
    Config.address_ne h.1 13 15 (by decide) (by decide) (by decide)
  have hcf : s.cfg.aChgctl.toNat ≠ s.cfg.aFastchg.toNat :=
    Config.address_ne h.1 14 15 (by decide) (by decide) (by decide)
  have hug : s.cfg.aUsblim.toNat ≠ s.cfg.aGpo.toNat :=
    Config.address_ne h.1 13 16 (by decide) (by decide) (by decide)
  have hcg : s.cfg.aChgctl.toNat ≠ s.cfg.aGpo.toNat :=
    Config.address_ne h.1 14 16 (by decide) (by decide) (by decide)
  have hfg : s.cfg.aFastchg.toNat ≠ s.cfg.aGpo.toNat :=
    Config.address_ne h.1 15 16 (by decide) (by decide) (by decide)
  have hg := s.cfg.aGpo.isLt
  have hf := s.cfg.aFastchg.isLt
  have key : ∃ t : State, applyPolicy type s = t.setReg s.cfg.aFastchg.toNat s.cfg.fastchgMax ∧
      LimitSet (policyLimit s type) [s.cfg.aGpo.toNat] s t ∧ Memory.wf t.regs = true ∧
      t.reg s.cfg.aGpo.toNat =
        if type = .oneAmp then s.reg s.cfg.aGpo.toNat &&& ~~~s.cfg.gpoContendMask else s.reg s.cfg.aGpo.toNat := by
    have same : ∀ ma, LimitSet ma [s.cfg.aGpo.toNat] s (setCurrentLimit ma s) ∧
        Memory.wf (setCurrentLimit ma s).regs = true ∧
        (setCurrentLimit ma s).reg s.cfg.aGpo.toNat = s.reg s.cfg.aGpo.toNat := by
      intro ma
      obtain ⟨hl, hw⟩ := setCurrentLimit_spec ma h
      refine ⟨LimitSet.of_regs rfl (fun _ _ => rfl) (by simpa using hug) (by simpa using hcg) hl, hw, ?_⟩
      exact hl.2.2.1 _ (by simp [hug.symm, hcg.symm])
    cases type with
    | none => exact ⟨_, rfl, (same 0).1, (same 0).2.1, by simpa using (same 0).2.2⟩
    | hostLimited => exact ⟨_, rfl, (same _).1, (same _).2.1, by simpa using (same _).2.2⟩
    | oneAmp =>
      have hw' := State.clearBitsAt_wf (a := s.cfg.aGpo.toNat) (m := s.cfg.gpoContendMask) hm
      obtain ⟨hl, hw⟩ := setCurrentLimit_spec s.cfg.curlimMax
        (s := s.clearBitsAt s.cfg.aGpo.toNat s.cfg.gpoContendMask) ⟨h.1, hw'⟩
      refine ⟨_, rfl, LimitSet.of_regs (m := s.clearBitsAt s.cfg.aGpo.toNat s.cfg.gpoContendMask) rfl ?_
        (by simpa using hug) (by simpa using hcg) hl, hw, ?_⟩
      · intro a ha
        exact State.setReg_reg_ne hm (by simpa using ha)
      · rw [if_pos rfl]
        refine (hl.2.2.1 s.cfg.aGpo.toNat ?_).trans (State.setReg_reg_same hm hg)
        simp only [List.append_nil, List.mem_cons, List.not_mem_nil, or_false, not_or]
        exact ⟨hug.symm, hcg.symm⟩
  obtain ⟨t, he, hl, hw, hgpo⟩ := key
  have hcfg : t.cfg = s.cfg := by rw [hl.2.2.2.2.2.2]
  rw [he]
  refine ⟨⟨State.setReg_reg_same hw hf, ?_, LimitSet.setReg hl hw huf hcf⟩, State.setReg_wf hw⟩
  rw [State.setReg_reg_ne hw hfg.symm, hgpo]

theorem classifySample_eq (cfg : Config) (sample : Nat) (usb : Bool) :
    classifySample cfg sample usb = typeOf cfg sample usb := rfl

/-- CLASSIFY_DONE (R177): stale, nothing; current, the policy of the sample's type. -/
theorem classifyDone_spec {s : State} (snapshot result : Nat) (h : s.Sound) :
    (if s.usbRemovalCount = snapshot then
      PolicySet (typeOf s.cfg result s.flags.usbPresent) s (classifyDone snapshot result s)
    else classifyDone snapshot result s = s) ∧ Memory.wf (classifyDone snapshot result s).regs = true := by
  unfold classifyDone
  split
  · exact applyPolicy_spec _ h
  · exact ⟨rfl, h.2⟩

/-- BATFULL_DANCE (R180) leaves every register as it was. -/
theorem batfullDance_reg {s : State} {b : Nat} (h : Memory.wf s.regs = true) : (batfullDance s).reg b = s.reg b := by
  have hu := s.cfg.aUsblim.isLt
  have h1 := State.setMaskedAt_wf (a := s.cfg.aUsblim.toNat) (m := s.cfg.usblimMask) (v := s.cfg.tierCode.suspend) h
  rw [batfullDance, State.setMaskedAt_reg h1]
  simp only [State.setMaskedAt_reg h, hu, and_true, if_true]
  split
  · rename_i hb
    rw [hb]
    ext i hi
    simp only [BitVec.getElem_or, BitVec.getElem_and, BitVec.getElem_not]
    cases (s.reg s.cfg.aUsblim.toNat)[i] <;> cases s.cfg.usblimMask[i] <;> cases s.cfg.tierCode.suspend[i] <;> rfl
  · rfl

theorem batfullDance_eq (s : State) : batfullDance s = { s with regs := (batfullDance s).regs } := by
  simp only [batfullDance, State.setMaskedAt, State.setReg]

theorem batfullDance_wf {s : State} (h : Memory.wf s.regs = true) : Memory.wf (batfullDance s).regs = true :=
  State.setMaskedAt_wf (State.setMaskedAt_wf h)

end Sys2Proof.Machine
end

