-- ==== Sys2Proof/Laws/Scheduler.lean ====
section
/-! SUPPORT. What each operation of the ADC scheduler can do, said once (40_adc_scheduler.md R140 to R142, R144, R145,
41_charger_fsm.md R176), and the arithmetic of the ring buffer (10_state.md R41, R42). -/

namespace Sys2Proof.Machine

/-! ### The ring buffer -/

theorem bump_lt {s : State} {i : Nat} (h : 0 < s.cfg.depth) : s.bump i < s.cfg.depth := Nat.mod_lt _ h

/-- `(a - b) mod n` for indices in range. -/
theorem ring_sub {a b n : Nat} (ha : a < n) (hb : b < n) :
    (a + n - b) % n = if b ≤ a then a - b else a + n - b := by
  split
  · rw [show a + n - b = a - b + n by omega, Nat.add_mod_right, Nat.mod_eq_of_lt (by omega)]
  · exact Nat.mod_eq_of_lt (by omega)

/-- `(i + 1) mod n` for an index in range. -/
theorem ring_succ {i n : Nat} (h : i < n) : (i + 1) % n = if i + 1 = n then 0 else i + 1 := by
  split
  · rename_i he
    rw [he, Nat.mod_self]
  · exact Nat.mod_eq_of_lt (by omega)

/-- A slot after one slot was set. -/
theorem State.slot_set {s : State} {i j : Nat} {x : Option AdcRequest} (h : i < s.slots.length) :
    (s.slots.set i x).getD j none = if j = i then x else s.slot j := by
  unfold State.slot
  rw [List.getD_eq_getElem?_getD, List.getD_eq_getElem?_getD, List.getElem?_set]
  split
  · rename_i he
    subst he
    rw [if_pos rfl, Option.getD_some]
  · rename_i he
    rw [if_neg (fun h => he h.symm)]

/-! ### Starting a conversion -/

theorem adcStart_wf {r : AdcRequest} {s : State} (h : Memory.wf s.regs = true) :
    Memory.wf (adcStart r s).regs = true := State.setReg_wf (s := s) h

theorem adcStart_reg {r : AdcRequest} {s : State} {b : Nat} (h : Memory.wf s.regs = true) :
    (adcStart r s).reg b =
      if b = s.cfg.aAdcctl.toNat then adcctlByte s.cfg r.chan r.avg else s.reg b := by
  have hc := s.cfg.aAdcctl.isLt
  refine (State.setReg_reg (s := s) h).trans ?_
  simp [hc]

theorem adcStart_eq (r : AdcRequest) (s : State) :
    adcStart r s = { s with adcHw := (adcStart r s).adcHw, regs := (adcStart r s).regs } := rfl

/-- The accepting half of ADC_ENQUEUE (R140). -/
theorem enqueueAccepted_spec {s : State} (r : AdcRequest) (h : Memory.wf s.regs = true) :
    Accepted r s (enqueueAccepted r s) ∧ Memory.wf (enqueueAccepted r s).regs = true := by
  unfold enqueueAccepted Accepted State.fifoEmpty
  by_cases he : s.head = s.tail
  · have hw : Memory.wf (pushSlot r s).regs = true := h
    simp only [he, beq_self_eq_true, if_true]
    refine ⟨⟨?_, ?_, ⟨?_, rfl, ?_⟩, ?_⟩, adcStart_wf hw⟩
    · simp [adcStart, pushSlot, he]
    · simp [adcStart, pushSlot, he, State.bump]
    · rw [adcStart_reg hw]
      simp [pushSlot]
    · intro b hb
      rw [adcStart_reg hw, if_neg (by simpa using hb)]
      rfl
    · simp [adcStart, pushSlot, State.setReg]
  · have hb : (s.head == s.tail) = false := by simpa using he
    simp only [he, hb, Bool.false_eq_true, if_false]
    exact ⟨⟨rfl, rfl, ⟨rfl, fun _ => rfl⟩, rfl⟩, h⟩

theorem fifoFull_iff {s : State} : s.fifoFull = true ↔ (s.head + 1) % s.cfg.depth = s.tail := by
  simp [State.fifoFull, State.bump]

theorem adcEnqueue_full {r : AdcRequest} {ok full : State → State} {s : State}
    (h : (s.head + 1) % s.cfg.depth = s.tail) :
    adcEnqueue r ok full s = full (s.emit (.defect .adcQueueFull)) := by
  rw [adcEnqueue, if_pos (fifoFull_iff.mpr h)]

theorem adcEnqueue_room {r : AdcRequest} {ok full : State → State} {s : State}
    (h : (s.head + 1) % s.cfg.depth ≠ s.tail) : adcEnqueue r ok full s = ok (enqueueAccepted r s) := by
  rw [adcEnqueue, if_neg (fun hf => h (fifoFull_iff.mp hf))]

/-- CLASSIFY_TRIGGER (R176). -/
theorem classifyTrigger_spec {s : State} (h : Memory.wf s.regs = true) :
    Triggered s (classifyTrigger s) ∧ Memory.wf (classifyTrigger s).regs = true := by
  unfold Triggered classifyTrigger
  by_cases hf : (s.head + 1) % s.cfg.depth = s.tail
  · rw [if_pos hf, adcEnqueue_full hf]
    exact ⟨by simp [State.emit], h⟩
  · rw [if_neg hf, adcEnqueue_room hf]
    exact enqueueAccepted_spec _ h

/-! ### Completing a conversion -/

theorem startNext_spec {s t : State} (h : Memory.wf s.regs = true) (hs : startNext s = some t) :
    Restarted s t ∧ Memory.wf t.regs = true := by
  unfold startNext State.fifoEmpty at hs
  unfold Restarted
  by_cases he : s.head = s.tail
  · rw [if_pos (by simpa using he)] at hs
    rw [if_pos he]
    cases hs
    exact ⟨rfl, h⟩
  · rw [if_neg (by simpa using he), Option.map_eq_some_iff] at hs
    rw [if_neg he]
    obtain ⟨q, hq, rfl⟩ := hs
    refine ⟨⟨q, hq, ?_, rfl, ?_, rfl⟩, adcStart_wf h⟩
    · rw [adcStart_reg h, if_pos rfl]
    · intro b hb
      rw [adcStart_reg h, if_neg (by simpa using hb)]

/-- What the delivery leaves alone (R142). -/
theorem deliver_frame (r : AdcRequest) (v : BitVec 10) (s : State) :
    (deliver r v s).cfg = s.cfg ∧ (deliver r v s).slots = s.slots ∧ (deliver r v s).head = s.head ∧
      (deliver r v s).tail = s.tail := by
  unfold deliver
  cases r.target with
  | sync w => exact ⟨rfl, rfl, rfl, rfl⟩
  | callback f => exact ⟨rfl, rfl, rfl, rfl⟩
  | classify =>
    dsimp only
    have hl : ∀ (ma : Nat) (u : State), (setCurrentLimit ma u).cfg = u.cfg ∧ (setCurrentLimit ma u).slots = u.slots ∧
        (setCurrentLimit ma u).head = u.head ∧ (setCurrentLimit ma u).tail = u.tail := by
      intro ma u
      rw [setCurrentLimit, autoresumeHandshake_eq, chargeEnable_eq]
      exact ⟨rfl, rfl, rfl, rfl⟩
    unfold classifyDone applyPolicy
    split
    · dsimp only
      split
      · exact hl _ (s.emit _)
      · exact hl _ (s.emit _)
      · exact hl _ (State.clearBitsAt (s.emit _) _ _)
    · exact ⟨rfl, rfl, rfl, rfl⟩

/-- Handing a result over leaves callers of other ids alone. -/
theorem deliverTo_other {w : Byte} {v : BitVec 10} {l : List Waiter} (h : ∀ x ∈ l, x.caller ≠ w) :
    deliverTo w v l = l := by
  induction l with
  | nil => rfl
  | cons x l ih =>
    rw [deliverTo, if_neg (fun hc => h x (by simp) hc.1), ih fun y hy => h y (by simp [hy])]

/-- The first caller of that id that waits for a conversion gets the result. -/
theorem deliverTo_first {w : Byte} {v : BitVec 10} {pre post : List Waiter} {x : Waiter}
    (h : ∀ y ∈ pre, y.caller ≠ w) (hx : x.caller = w) (hr : x.result = none)
    (hf : x.waitFor = .adcRead ∨ x.waitFor = .battery) :
    deliverTo w v (pre ++ x :: post) = pre ++ { x with result := some v } :: post := by
  induction pre with
  | nil => rw [List.nil_append, deliverTo, if_pos ⟨hx, hr, hf⟩, List.nil_append]
  | cons y pre ih =>
    rw [List.cons_append, deliverTo, if_neg (fun hc => h y (by simp) hc.1), ih fun z hz => h z (by simp [hz]),
      List.cons_append]

/-! ### Wake-ups -/

/-- Callers before the first whose wake-up is enabled stay. -/
theorem takeWaiter_skip {s : State} {w : Byte} {pre l : List Waiter}
    (h : ∀ x ∈ pre, x.caller = w → wakeValue s x = none) :
    takeWaiter s w (pre ++ l) = (takeWaiter s w l).map fun p => (p.1, pre ++ p.2) := by
  induction pre with
  | nil => simp
  | cons x pre ih =>
    have hx : (if x.caller = w then wakeValue s x else none) = none := by
      split
      · exact h x (by simp) (by assumption)
      · rfl
    rw [List.cons_append, takeWaiter, hx, ih fun y hy => h y (by simp [hy])]
    simp [Option.map_map, Function.comp_def]

theorem takeWaiter_first {s : State} {x : Waiter} {l : List Waiter} {v : ReturnValue} (h : wakeValue s x = some v) :
    takeWaiter s x.caller (x :: l) = some (v, l) := by
  rw [takeWaiter, if_pos rfl, h]

theorem takeWaiter_none {s : State} {w : Byte} {l : List Waiter}
    (h : ∀ x ∈ l, x.caller = w → wakeValue s x = none) : takeWaiter s w l = none := by
  have := takeWaiter_skip (l := []) h
  simpa [takeWaiter] using this

end Sys2Proof.Machine
end

