-- ==== Sys2Proof/Laws/Transport.lean ====
section
/-! SUPPORT. What a host's reads and writes can do, said once (20_memory.md R71, R72, R77; 93_implementation_defined.md
U3, U4). -/

namespace Sys2Proof.Machine

/-! ### Reading -/

theorem State.clearInt_eq (s : State) (a n i : Nat) :
    s.clearInt a n i = { s with regs := (s.clearInt a n i).regs } := by
  unfold State.clearInt
  split <;> rfl

theorem State.clearInt_reg {s : State} {a n i b : Nat} (h : Memory.wf s.regs = true) (hi : s.intAt i < 256) :
    (s.clearInt a n i).reg b = if b = s.intAt i ∧ InBlock a n b then 0 else s.reg b := by
  unfold State.clearInt
  split
  · rename_i hr
    rw [State.setReg_reg h]
    simp only [hi, and_true]
    split
    · rename_i hb
      rw [if_pos ⟨hb, by rw [hb]; exact hr⟩]
    · rename_i hb
      rw [if_neg (fun hc => hb hc.1)]
  · rename_i hr
    rw [if_neg (fun hc => hr (by rw [← hc.1]; exact hc.2))]

theorem State.clearCovered_eq (s : State) (a n : Nat) :
    s.clearCovered a n =
      { s with
        regs := (s.clearCovered a n).regs
        irqSeen :=
          if s.touchesLine a n then s.irqSeen && (s.clearCovered a n).irqLine else s.irqSeen } := by
  have key : ∀ u : State, u = { s with regs := u.regs } →
      u.settleAfter a n =
        { s with
          regs := (u.settleAfter a n).regs
          irqSeen := if s.touchesLine a n then s.irqSeen && (u.settleAfter a n).irqLine else s.irqSeen } := by
    intro u hu
    have hl : (u.settleAfter a n).irqLine = u.irqLine := by
      rw [State.settleAfter_eq]
      rfl
    rw [hl, State.settleAfter_eq, hu]
    rfl
  refine key _ ?_
  have step : ∀ (u : State) (i : Nat), u = { s with regs := u.regs } →
      u.clearInt a n i = { s with regs := (u.clearInt a n i).regs } := by
    intro u i hu
    have := State.clearInt_eq u a n i
    rw [this]
    generalize (u.clearInt a n i).regs = m
    rw [hu]
  exact step _ 4 (step _ 3 (step _ 2 (step _ 1 (step _ 0 rfl))))

/-- A read clears the status registers it covers and no other (R77). -/
theorem State.clearCovered_reg {s : State} {a n b : Nat} (h : s.Sound) :
    (s.clearCovered a n).reg b =
      if InBlock a n b ∧ InBlock s.cfg.aInt.toNat 5 b then 0 else s.reg b := by
  have hb := Config.int_bound h.1
  have h0 : ∀ (u : State), u.cfg = s.cfg → ∀ i < 5, u.intAt i < 256 := by
    intro u hu i hi
    rw [State.intAt, hu]
    omega
  have hc : ∀ (u : State) i, (u.clearInt a n i).cfg = u.cfg := fun u i => by rw [State.clearInt_eq]
  have hi : ∀ (u : State), u.cfg = s.cfg → ∀ i, u.intAt i = s.cfg.aInt.toNat + i := fun u hu i => by
    rw [State.intAt, hu]
  have w0 := State.clearInt_wf (a := a) (n := n) (i := 0) h.2
  have w1 := State.clearInt_wf (a := a) (n := n) (i := 1) w0
  have w2 := State.clearInt_wf (a := a) (n := n) (i := 2) w1
  have w3 := State.clearInt_wf (a := a) (n := n) (i := 3) w2
  have hs : ∀ u : State, (u.settleAfter a n).reg b = u.reg b := fun u => by
    rw [State.settleAfter_eq]
    rfl
  have c1 : (s.clearInt a n 0).cfg = s.cfg := hc _ _
  have c2 : ((s.clearInt a n 0).clearInt a n 1).cfg = s.cfg := (hc _ _).trans c1
  have c3 : (((s.clearInt a n 0).clearInt a n 1).clearInt a n 2).cfg = s.cfg := (hc _ _).trans c2
  have c4 : ((((s.clearInt a n 0).clearInt a n 1).clearInt a n 2).clearInt a n 3).cfg = s.cfg := (hc _ _).trans c3
  rw [State.clearCovered, hs, State.clearInt_reg w3 (h0 _ c4 4 (by omega)),
    State.clearInt_reg w2 (h0 _ c3 3 (by omega)), State.clearInt_reg w1 (h0 _ c2 2 (by omega)),
    State.clearInt_reg w0 (h0 _ c1 1 (by omega)), State.clearInt_reg h.2 (h0 _ rfl 0 (by omega)),
    hi _ c4, hi _ c3, hi _ c2, hi _ c1, hi _ rfl]
  by_cases hr : InBlock a n b
  · simp only [eq_true hr, and_true, true_and]
    by_cases hg : InBlock s.cfg.aInt.toNat 5 b
    · rw [if_pos hg]
      obtain ⟨k, rfl⟩ := Nat.exists_eq_add_of_le hg.1
      have hk : k < 5 := by have := hg.2; omega
      interval_cases k <;> simp
    · rw [if_neg hg]
      have hne : ∀ i < 5, b ≠ s.cfg.aInt.toNat + i := fun i hi5 he => hg ⟨by omega, by omega⟩
      rw [if_neg (hne 4 (by omega)), if_neg (hne 3 (by omega)), if_neg (hne 2 (by omega)), if_neg (hne 1 (by omega)),
        if_neg (hne 0 (by omega))]
  · simp [hr]

/-! ### Writing -/

/-- One register written by a host (R72, R77; U3 for a read-only one). -/
theorem State.hostStore_spec {s : State} (a : Nat) (v junk : Byte) (h : s.Sound) (ha : a < 256) :
    (s.readOnly a = false → (s.hostStore a v junk).reg a = v) ∧ SameRegsBut [a] s (s.hostStore a v junk) ∧
      (s.hostStore a v junk).adcHw =
        (if a = s.cfg.aAdcctl.toNat ∧ adcctlStarts s.cfg v = true then
          .converting (adcctlChan s.cfg v) (adcctlAvg s.cfg v) else s.adcHw) ∧
      (s.hostStore a v junk).standbyIssued =
        (s.standbyIssued || (a == s.cfg.aStandby.toNat && allSet v s.cfg.standbyCmd)) ∧
      s.hostStore a v junk =
        { s with
          regs := (s.hostStore a v junk).regs
          adcHw := (s.hostStore a v junk).adcHw
          standbyIssued := (s.hostStore a v junk).standbyIssued } := by
  have hsame : ∀ w, SameRegsBut [a] s (s.setReg a w) := fun w b hb => State.setReg_reg_ne h.2 (by simpa using hb)
  have hro : ∀ k, 11 ≤ k → k < 20 → s.cfg.aAdcctl.toNat ≠ s.cfg.addresses.getD k 0 := fun k h1 h2 =>
    Config.address_ne h.1 10 k (by decide) h2 (by omega)
  have hi : ∀ i < 5, s.cfg.aInt.toNat + i ≠ s.cfg.aAdcctl.toNat := fun i h5 =>
    Config.int_ne h.1 i 10 h5 (by omega) (by omega)
  have hi' : ∀ i < 5, s.cfg.aInt.toNat + i ≠ s.cfg.aStandby.toNat := fun i h5 =>
    Config.int_ne h.1 i 19 h5 (by omega) (by omega)
  have inInt : ∀ x : Nat, s.cfg.aInt.toNat ≤ x → x < s.cfg.aInt.toNat + 5 →
      x ≠ s.cfg.aAdcctl.toNat ∧ x ≠ s.cfg.aStandby.toNat := by
    intro x h1 h2
    obtain ⟨k, rfl⟩ := Nat.exists_eq_add_of_le h1
    exact ⟨hi k (by omega), hi' k (by omega)⟩
  have hst : ∀ k, 10 ≤ k → k < 19 → s.cfg.addresses.getD k 0 ≠ s.cfg.aStandby.toNat := fun k h1 h2 =>
    Config.address_ne h.1 k 19 (by omega) (by decide) (by omega)
  unfold State.hostStore
  by_cases hr : s.readOnly a = true
  · rw [if_pos hr]
    have hne : a ≠ s.cfg.aAdcctl.toNat ∧ a ≠ s.cfg.aStandby.toNat := by
      simp only [State.readOnly, Bool.or_eq_true, Bool.and_eq_true, decide_eq_true_eq, beq_iff_eq] at hr
      rcases hr with (((hr | hr) | hr) | hr) | hr
      · exact inInt a hr.1 hr.2
      · rw [hr]; exact ⟨(hro 11 (by omega) (by omega)).symm, hst 11 (by omega) (by omega)⟩
      · rw [hr]; exact ⟨(hro 12 (by omega) (by omega)).symm, hst 12 (by omega) (by omega)⟩
      · rw [hr]; exact ⟨(hro 17 (by omega) (by omega)).symm, hst 17 (by omega) (by omega)⟩
      · rw [hr]; exact ⟨(hro 18 (by omega) (by omega)).symm, hst 18 (by omega) (by omega)⟩
    refine ⟨fun hf => by simp [hr] at hf, hsame _, ?_, ?_, rfl⟩
    · rw [if_neg (fun hc => hne.1 hc.1)]
      rfl
    · have : (a == s.cfg.aStandby.toNat) = false := by simpa using hne.2
      simp [this]
  · rw [if_neg hr]
    by_cases hc : a = s.cfg.aAdcctl.toNat
    · have hs : (a == s.cfg.aStandby.toNat) = false := by
        rw [hc]
        exact beq_false_of_ne (hro 19 (by omega) (by omega))
      have hform : (s.setReg a v).adcctlWritten v =
          if adcctlStarts s.cfg v = true then
            { s.setReg a v with adcHw := .converting (adcctlChan s.cfg v) (adcctlAvg s.cfg v) }
          else s.setReg a v := rfl
      rw [if_pos hc, hform]
      by_cases hst' : adcctlStarts s.cfg v = true
      · rw [if_pos hst', if_pos ⟨hc, hst'⟩]
        exact ⟨fun _ => State.setReg_reg_same (s := s) h.2 ha, hsame _, rfl, by simp [hs], rfl⟩
      · rw [if_neg hst', if_neg (fun hx => hst' hx.2)]
        exact ⟨fun _ => State.setReg_reg_same h.2 ha, hsame _, rfl, by simp [hs], rfl⟩
    · rw [if_neg hc]
      by_cases hsb : a = s.cfg.aStandby.toNat
      · rw [if_pos hsb]
        refine ⟨fun _ => State.setReg_reg_same h.2 ha, hsame _, ?_, ?_, rfl⟩
        · rw [if_neg (fun hx => hc hx.1)]
          rfl
        · have : (a == s.cfg.aStandby.toNat) = true := by simpa using hsb
          simp [State.standbyWritten, this]
      · rw [if_neg hsb]
        refine ⟨fun _ => State.setReg_reg_same h.2 ha, hsame _, ?_, ?_, rfl⟩
        · rw [if_neg (fun hx => hc hx.1)]
          rfl
        · have : (a == s.cfg.aStandby.toNat) = false := by simpa using hsb
          simp [this]

theorem State.hostStore_sound {s : State} {a : Nat} {v junk : Byte} (h : s.Sound) (ha : a < 256) :
    (s.hostStore a v junk).Sound ∧ (s.hostStore a v junk).cfg = s.cfg := by
  have hc : (s.hostStore a v junk).cfg = s.cfg := by rw [(State.hostStore_spec a v junk h ha).2.2.2.2]
  exact ⟨⟨by rw [hc]; exact h.1, State.hostStore_wf h.2⟩, hc⟩

/-- The part of `State.readOnly` that the configuration decides is all of it. -/
theorem State.readOnly_congr {s t : State} (h : t.cfg = s.cfg) (a : Nat) : t.readOnly a = s.readOnly a := by
  simp only [State.readOnly, h]

theorem State.readOnly_adcctl {s : State} (h : s.cfg.wf = true) : s.readOnly s.cfg.aAdcctl.toNat = false := by
  have hi : ¬(s.cfg.aInt.toNat ≤ s.cfg.aAdcctl.toNat ∧ s.cfg.aAdcctl.toNat < s.cfg.aInt.toNat + 5) := by
    intro hc
    obtain ⟨k, hk⟩ := Nat.exists_eq_add_of_le hc.1
    exact Config.int_ne h k 10 (by omega) (by omega) (by omega) hk.symm
  have h1 := beq_false_of_ne (Config.address_ne h 10 11 (by decide) (by decide) (by decide))
  have h2 := beq_false_of_ne (Config.address_ne h 10 12 (by decide) (by decide) (by decide))
  have h3 := beq_false_of_ne (Config.address_ne h 10 17 (by decide) (by decide) (by decide))
  have h4 := beq_false_of_ne (Config.address_ne h 10 18 (by decide) (by decide) (by decide))
  have h0 : (decide (s.cfg.aInt.toNat ≤ s.cfg.aAdcctl.toNat) &&
      decide (s.cfg.aAdcctl.toNat < s.cfg.aInt.toNat + 5)) = false := by
    rw [← Bool.decide_and]
    exact decide_eq_false hi
  exact Bool.or_eq_false_iff.mpr ⟨Bool.or_eq_false_iff.mpr ⟨Bool.or_eq_false_iff.mpr
    ⟨Bool.or_eq_false_iff.mpr ⟨h0, h1⟩, h2⟩, h3⟩, h4⟩

theorem State.readOnly_standby {s : State} (h : s.cfg.wf = true) : s.readOnly s.cfg.aStandby.toNat = false := by
  have hi : ¬(s.cfg.aInt.toNat ≤ s.cfg.aStandby.toNat ∧ s.cfg.aStandby.toNat < s.cfg.aInt.toNat + 5) := by
    intro hc
    obtain ⟨k, hk⟩ := Nat.exists_eq_add_of_le hc.1
    exact Config.int_ne h k 19 (by omega) (by omega) (by omega) hk.symm
  have h1 := beq_false_of_ne (Config.address_ne h 19 11 (by decide) (by decide) (by decide))
  have h2 := beq_false_of_ne (Config.address_ne h 19 12 (by decide) (by decide) (by decide))
  have h3 := beq_false_of_ne (Config.address_ne h 19 17 (by decide) (by decide) (by decide))
  have h4 := beq_false_of_ne (Config.address_ne h 19 18 (by decide) (by decide) (by decide))
  have h0 : (decide (s.cfg.aInt.toNat ≤ s.cfg.aStandby.toNat) &&
      decide (s.cfg.aStandby.toNat < s.cfg.aInt.toNat + 5)) = false := by
    rw [← Bool.decide_and]
    exact decide_eq_false hi
  exact Bool.or_eq_false_iff.mpr ⟨Bool.or_eq_false_iff.mpr ⟨Bool.or_eq_false_iff.mpr
    ⟨Bool.or_eq_false_iff.mpr ⟨h0, h1⟩, h2⟩, h3⟩, h4⟩

/-- A byte further on in the data. -/
theorem getD_cons_sub {v : Byte} {data : List Byte} {a b : Nat} (h : a < b) :
    (v :: data).getD (b - a) 0 = data.getD (b - (a + 1)) 0 := by
  rw [show b - a = (b - (a + 1)) + 1 by omega, List.getD_cons_succ]

/-- A draw further on. -/
theorem getD_tail_sub {stored : List Bool} {a b : Nat} (h : a < b) :
    stored.tail.getD (b - (a + 1)) false = stored.getD (b - a) false := by
  rw [show b - a = (b - (a + 1)) + 1 by omega]
  cases stored <;> rfl

/-- Register `b` is one that a block write from `a` on stores: it is in the block and its draw says so (U4). -/
abbrev StoredAt (a n : Nat) (stored : List Bool) (b : Nat) : Prop :=
  InBlock a n b ∧ stored.getD (b - a) false = true

/-- The registers that the rest of a block write stores, but for the first one. -/
theorem storedAt_succ {a n b : Nat} {stored : List Bool} (h : b ≠ a) :
    StoredAt (a + 1) n stored.tail b ↔ StoredAt a (n + 1) stored b := by
  constructor
  · rintro ⟨⟨h1, h2⟩, h3⟩
    exact ⟨⟨by omega, by omega⟩, by rwa [getD_tail_sub (by omega)] at h3⟩
  · rintro ⟨⟨h1, h2⟩, h3⟩
    exact ⟨⟨by omega, by omega⟩, by rwa [getD_tail_sub (by omega)]⟩

/-- A block write, whatever bytes the environment stored (R72, R77; U4): each stored byte is in its register with its side
effect, every other register is as before. -/
theorem State.hostStoreBlock_spec {s : State} (a : Nat) (data junk : List Byte) (stored : List Bool) (h : s.Sound)
    (ha : a + data.length ≤ 256) :
    let t := s.hostStoreBlock a data junk stored
    (∀ b, StoredAt a data.length stored b → s.readOnly b = false → t.reg b = data.getD (b - a) 0) ∧
      (∀ b, ¬StoredAt a data.length stored b → t.reg b = s.reg b) ∧
      t.adcHw =
        (if StoredAt a data.length stored s.cfg.aAdcctl.toNat ∧
            adcctlStarts s.cfg (data.getD (s.cfg.aAdcctl.toNat - a) 0) = true then
          .converting (adcctlChan s.cfg (data.getD (s.cfg.aAdcctl.toNat - a) 0))
            (adcctlAvg s.cfg (data.getD (s.cfg.aAdcctl.toNat - a) 0))
        else s.adcHw) ∧
      t.standbyIssued =
        (s.standbyIssued ||
          decide (StoredAt a data.length stored s.cfg.aStandby.toNat ∧
            allSet (data.getD (s.cfg.aStandby.toNat - a) 0) s.cfg.standbyCmd = true)) ∧
      t = { s with regs := t.regs, adcHw := t.adcHw, standbyIssued := t.standbyIssued } := by
  induction data generalizing s a junk stored with
  | nil =>
    have hno : ∀ b, ¬StoredAt a ([] : List Byte).length stored b := fun b hb => by
      have h1 := hb.1.1
      have h2 := hb.1.2
      simp only [List.length_nil] at h2
      omega
    refine ⟨fun b hb => absurd hb (hno b), fun _ _ => rfl, ?_, ?_, rfl⟩
    · rw [if_neg (fun hc => hno _ hc.1)]
      rfl
    · rw [decide_eq_false (fun hc => hno _ hc.1), Bool.or_false]
      rfl
  | cons v data ih =>
    have ha' : a < 256 := by simp only [List.length_cons] at ha; omega
    have hfirst : StoredAt a (v :: data).length stored a ↔ stored.headD false = true := by
      have hb : stored.getD (a - a) false = stored.headD false := by
        rw [Nat.sub_self]
        cases stored <;> rfl
      exact ⟨fun hc => hb ▸ hc.2, fun hc => ⟨⟨Nat.le_refl _, by rw [List.length_cons]; omega⟩, hb ▸ hc⟩⟩
    -- what the first byte does
    have key : ∃ u : State, s.hostStoreBlock a (v :: data) junk stored =
          u.hostStoreBlock (a + 1) data junk.tail stored.tail ∧ u.Sound ∧ u.cfg = s.cfg ∧ SameRegsBut [a] s u ∧
        (StoredAt a (v :: data).length stored a → s.readOnly a = false → u.reg a = v) ∧
        (¬StoredAt a (v :: data).length stored a → u.reg a = s.reg a) ∧
        u.adcHw = (if StoredAt a (v :: data).length stored a ∧ a = s.cfg.aAdcctl.toNat ∧
            adcctlStarts s.cfg v = true then
          .converting (adcctlChan s.cfg v) (adcctlAvg s.cfg v) else s.adcHw) ∧
        u.standbyIssued =
          (s.standbyIssued || decide (StoredAt a (v :: data).length stored a ∧ a = s.cfg.aStandby.toNat ∧
            allSet v s.cfg.standbyCmd = true)) ∧
        u = { s with regs := u.regs, adcHw := u.adcHw, standbyIssued := u.standbyIssued } := by
      by_cases hst : stored.headD false = true
      · obtain ⟨h1, h2, h3, h4, h5⟩ := State.hostStore_spec a v (junk.headD 0) h ha'
        have hs := hfirst.mpr hst
        refine ⟨s.hostStore a v (junk.headD 0), by rw [State.hostStoreBlock, if_pos hst],
          (State.hostStore_sound h ha').1, (State.hostStore_sound h ha').2, h2, fun _ => h1, fun hc => absurd hs hc,
          by rw [h3]; simp only [eq_true hs, true_and], ?_, h5⟩
        rw [h4]
        simp only [eq_true hs, true_and, Bool.decide_and, Bool.decide_eq_true, beq_eq_decide]
      · have hs : ¬StoredAt a (v :: data).length stored a := fun hc => hst (hfirst.mp hc)
        refine ⟨s, by rw [State.hostStoreBlock, if_neg hst], h, rfl, fun _ _ => rfl, fun hc => absurd hc hs,
          fun _ => rfl, ?_, ?_, rfl⟩
        · rw [if_neg (fun hc => hs hc.1)]
        · rw [decide_eq_false (fun hc => hs hc.1), Bool.or_false]
    obtain ⟨u, hu, hsd, hcfg, hfr, hra, hrn, hadc, hsb, heq⟩ := key
    obtain ⟨i1, i2, i3, i4, i5⟩ := ih (s := u) (a + 1) junk.tail stored.tail hsd
      (by simp only [List.length_cons] at ha; omega)
    rw [hu]
    have hna : ¬StoredAt (a + 1) data.length stored.tail a := fun hc => by have := hc.1.1; omega
    have hlen : (v :: data).length = data.length + 1 := rfl
    refine ⟨?_, ?_, ?_, ?_, ?_⟩
    · intro b hb hr
      by_cases hba : b = a
      · subst hba
        rw [i2 b hna, Nat.sub_self, List.getD_cons_zero]
        exact hra hb hr
      · have hb' := (storedAt_succ hba).mpr hb
        rw [getD_cons_sub (by have := hb'.1.1; omega)]
        exact i1 b hb' ((State.readOnly_congr hcfg b).trans hr)
    · intro b hb
      by_cases hba : b = a
      · subst hba
        rw [i2 b hna, hrn hb]
      · rw [i2 b (fun hc => hb ((storedAt_succ hba).mp hc)), hfr b (by simpa using hba)]
    · rw [i3, hcfg, hadc]
      by_cases hc : a = s.cfg.aAdcctl.toNat
      · have hna' : ¬StoredAt (a + 1) data.length stored.tail s.cfg.aAdcctl.toNat := hc ▸ hna
        rw [if_neg (fun hx => hna' hx.1)]
        simp only [← hc, Nat.sub_self, List.getD_cons_zero, true_and]
      · rw [if_neg (fun hx : _ ∧ a = s.cfg.aAdcctl.toNat ∧ _ => hc hx.2.1)]
        simp only [hlen, ← storedAt_succ (Ne.symm hc)]
        by_cases hb : StoredAt (a + 1) data.length stored.tail s.cfg.aAdcctl.toNat
        · rw [getD_cons_sub (by have := hb.1.1; omega)]
        · rw [if_neg (fun hx => hb hx.1), if_neg (fun hx => hb hx.1)]
    · rw [i4, hcfg, hsb]
      by_cases hc : a = s.cfg.aStandby.toNat
      · have hna' : ¬StoredAt (a + 1) data.length stored.tail s.cfg.aStandby.toNat := hc ▸ hna
        simp only [eq_false hna', false_and, decide_false, Bool.or_false]
        simp only [← hc, Nat.sub_self, List.getD_cons_zero, true_and]
      · rw [decide_eq_false (fun hx : _ ∧ a = s.cfg.aStandby.toNat ∧ _ => hc hx.2.1), Bool.or_false]
        simp only [hlen, ← storedAt_succ (Ne.symm hc)]
        by_cases hb : StoredAt (a + 1) data.length stored.tail s.cfg.aStandby.toNat
        · rw [getD_cons_sub (by have := hb.1.1; omega)]
        · rw [decide_eq_false (fun hx => hb hx.1), decide_eq_false (fun hx => hb hx.1)]
    · generalize u.hostStoreBlock (a + 1) data junk.tail stored.tail = t at i5 ⊢
      rw [heq] at i5
      exact i5

/-- A block write that succeeds stores every register of the block. -/
theorem storedAt_replicate {a n b : Nat} : StoredAt a n (List.replicate n true) b ↔ InBlock a n b := by
  refine ⟨fun hb => hb.1, fun hb => ⟨hb, ?_⟩⟩
  have h1 := hb.1
  have h2 := hb.2
  rw [List.getD_eq_getElem?_getD, List.getElem?_replicate, if_pos (by omega)]
  rfl

end Sys2Proof.Machine
end

