-- ==== Sys2Proof/Laws/Pass.lean ====
section
/-! SUPPORT. What the Dispatcher's and the coordinator's shared operations can do, said once
(42_interrupt_dispatcher.md R200 to R208, 43_suspend_and_tasks.md R260, R261). -/

namespace Sys2Proof.Machine

/-- The line is decided by the registers and the configuration. -/
theorem State.irqLine_of_regs {s t : State} (hc : t.cfg = s.cfg) (hr : t.regs = s.regs) : t.irqLine = s.irqLine :=
  State.irqLine_congr hc fun _ _ => ⟨congrArg (Memory.read · _) hr, congrArg (Memory.read · _) hr⟩

theorem State.settleLine_eq (s : State) : s.settleLine = { s with irqSeen := s.irqSeen && s.irqLine } := rfl

theorem State.tickMaskAt_lt {s : State} (h : s.Sound) : s.tickMaskAt < 256 := by
  have := Config.intm_bound h.1
  have h2 := (s.cfg.pos .tick).byte.isLt
  unfold State.tickMaskAt State.intmAt
  omega

/-- MaskTick (30_encoding.md R109, 20_memory.md R85). -/
theorem State.maskTick_spec {s : State} (h : s.Sound) :
    s.maskTick.reg s.tickMaskAt = s.reg s.tickMaskAt ||| s.tickBit ∧ SameRegsBut [s.tickMaskAt] s s.maskTick ∧
      s.maskTick.irqSeen = (s.irqSeen && s.maskTick.irqLine) ∧
      s.maskTick = { s with regs := s.maskTick.regs, irqSeen := s.maskTick.irqSeen } ∧
      Memory.wf s.maskTick.regs = true :=
  ⟨State.setReg_reg_same h.2 (State.tickMaskAt_lt h),
    fun _ hb => State.setReg_reg_ne h.2 (by simpa using hb), rfl, rfl, State.setBitsAt_wf h.2⟩

/-- UnmaskTick (30_encoding.md R109, 20_memory.md R85). -/
theorem State.unmaskTick_spec {s : State} (h : s.Sound) :
    s.unmaskTick.reg s.tickMaskAt = s.reg s.tickMaskAt &&& ~~~s.tickBit ∧ SameRegsBut [s.tickMaskAt] s s.unmaskTick ∧
      s.unmaskTick.irqSeen = (s.irqSeen && s.unmaskTick.irqLine) ∧
      s.unmaskTick = { s with regs := s.unmaskTick.regs, irqSeen := s.unmaskTick.irqSeen } ∧
      Memory.wf s.unmaskTick.regs = true :=
  ⟨State.setReg_reg_same h.2 (State.tickMaskAt_lt h),
    fun _ hb => State.setReg_reg_ne h.2 (by simpa using hb), rfl, rfl, State.clearBitsAt_wf h.2⟩

/-- A register that is no mask register is not the tick's. -/
theorem State.not_tickMaskAt {s : State} (h : s.Sound) (k : Nat) (hk : 10 ≤ k) (hk' : k < 20) :
    s.cfg.addresses.getD k 0 ≠ s.tickMaskAt :=
  (Config.intm_ne h.1 (s.cfg.pos .tick).byte.val k (s.cfg.pos .tick).byte.isLt hk hk').symm

/-- The Dispatcher's turn in a running pass is the pass's next micro-step. -/
theorem execDispatch_pass {s : State} {p : Pass} (hl : s.Live) (hd : s.disp ≠ .idle) (hp : s.pass = some p) :
    execDispatch s = passStep p s := by
  rw [execDispatch, powered_eq hl.1, hp]
  cases h : s.disp with
  | idle => exact absurd h hd
  | running => simp [hl.2]
  | runningResched => simp [hl.2]

/-- Asking for the classification read touches the FIFO, the converter, one register and the trace only. -/
theorem Triggered.frame {s u : State} (h : Triggered s u) :
    u = { s with slots := u.slots, head := u.head, adcHw := u.adcHw, regs := u.regs, outputs := u.outputs } := by
  unfold Triggered at h
  split at h
  · rw [h]
  · rw [h.2.2.2]

/-- The reports of the cold-plug (R205). -/
theorem coldplugReports_eq (usb chg : Bool) (s : State) :
    coldplugStatus (usb || chg) (coldplugChg chg (coldplugUsb usb s)) =
      { s with
        flags := { s.flags with usbPresent := usb || s.flags.usbPresent, chgPresent := chg || s.flags.chgPresent }
        outputs :=
          s.outputs ++ (if usb then [.notify .usbInsert] else []) ++
            (if chg then [.notify .chargerInsert, .inputPower true] else []) ++
            (if usb || chg then [.platform .statusChanged] else []) } := by
  cases usb <;> cases chg
  · simp only [coldplugStatus, coldplugChg, coldplugUsb, Bool.or_false, Bool.false_or, Bool.false_eq_true, if_false,
      List.append_nil]
  · simp only [coldplugStatus, coldplugChg, coldplugUsb, Bool.or_true, Bool.false_or, Bool.true_or,
      Bool.false_eq_true, if_false, if_true, List.append_nil, List.append_assoc, List.cons_append, List.nil_append,
      State.emit, State.setChgPresent]
  · simp only [coldplugStatus, coldplugChg, coldplugUsb, Bool.or_false, Bool.false_or, Bool.true_or,
      Bool.false_eq_true, if_false, if_true, List.append_nil, List.append_assoc, List.cons_append, List.nil_append,
      State.emit, State.setUsbPresent]
  · simp only [coldplugStatus, coldplugChg, coldplugUsb, Bool.or_true, Bool.true_or, if_true, List.append_assoc,
      List.cons_append, List.nil_append, State.emit, State.setChgPresent, State.setUsbPresent]

theorem fullRead_regs (s : State) : (fullRead s).regs = (s.writeGroup (s.intAt 0) ⟨0, 0, 0, 0, 0⟩).regs := by
  rw [fullRead, State.holdBlock]

/-- The status block's read clears the five status registers (R203). -/
theorem fullRead_reg {s : State} {b : Nat} (h : s.Sound) :
    (fullRead s).reg b = if InBlock s.cfg.aInt.toNat 5 b then 0 else s.reg b := by
  have hb := Config.int_bound h.1
  have hi : s.intAt 0 = s.cfg.aInt.toNat := Nat.add_zero _
  have h0 : (fullRead s).reg b = (s.writeGroup (s.intAt 0) ⟨0, 0, 0, 0, 0⟩).reg b := by
    rw [State.reg, State.reg, fullRead_regs]
  rw [h0, State.writeGroup_reg h.2 (by rw [hi]; omega), hi]
  by_cases hx : InBlock s.cfg.aInt.toNat 5 b
  · rw [if_pos hx, if_pos hx]
    have : b - s.cfg.aInt.toNat < 5 := by have := hx.2; omega
    generalize b - s.cfg.aInt.toNat = k at *
    interval_cases k <;> rfl
  · rw [if_neg hx, if_neg hx]

theorem fullRead_eq (s : State) :
    fullRead s =
      { s with
        regs := (fullRead s).regs
        irqSeen := false
        pass := s.pass.map fun p => { p with block := (s.readGroup (s.intAt 0)).block, next := .step4 } } := by
  have h : s.writeGroup (s.intAt 0) ⟨0, 0, 0, 0, 0⟩ =
      { s with regs := (s.writeGroup (s.intAt 0) ⟨0, 0, 0, 0, 0⟩).regs } := State.writeGroup_eq _ _ _
  rw [fullRead_regs]
  generalize (s.writeGroup (s.intAt 0) ⟨0, 0, 0, 0, 0⟩).regs = m at h ⊢
  unfold fullRead
  simp only [h, State.holdBlock]

theorem fullRead_wf {s : State} (h : Memory.wf s.regs = true) : Memory.wf (fullRead s).regs = true := by
  rw [fullRead_regs]
  exact State.writeGroup_wf h

/-- With every status register clear the line is low (10_state.md R58). -/
theorem State.irqLine_clear {s : State} (h : ∀ i < 5, s.reg (s.intAt i) = 0) : s.irqLine = false := by
  simp [State.irqLine, State.asserts, h]

end Sys2Proof.Machine
end

