-- ==== Sys2Proof/Laws/PerInstr.lean ====
section
/-! SUPPORT. The laws of each instruction as syntax: the label code and the form in which it comes (30_encoding.md R100,
R101, R102, R113). -/

namespace Sys2Proof.Laws

/-- The two top bits of the label code give the format (30_encoding.md R100): a command word carries the label code as its
`op` (R101), a label word is that code, an event is one named bit of the status block (R102). -/
def LabelFormat.Statement (i : Instr) : Prop :=
  ∀ cfg : Config,
    match encode cfg i with
    | .command w _ _ => CommandWord.op w = i.labelCode ∧ i.labelCode.extractLsb' 6 2 = 0b00
    | .label code _ =>
      code = i.labelCode ∧ (i.labelCode.extractLsb' 6 2 = 0b01 ∨ i.labelCode.extractLsb' 6 2 = 0b11)
    | .status block =>
      i.labelCode.extractLsb' 6 2 = 0b10 ∧ ∃ e : Event, e.instr = i ∧ block = cfg.eventMask e

/-- The `op` of a command word. -/
theorem op_commandWord (op a b c : Byte) : CommandWord.op (commandWord op a b c) = op := by
  unfold CommandWord.op commandWord
  ext k hk
  simp only [BitVec.getElem_extractLsb', BitVec.getLsbD_append]
  rw [if_neg (by omega), if_neg (by omega), if_neg (by omega), ← BitVec.getLsbD_eq_getElem]
  congr 1
  omega

/-- The format bits of the four ranges of label codes. -/
theorem format_of_code :
    (∀ k : Fin 14, (BitVec.ofNat 8 k.val).extractLsb' 6 2 = 0b00#2) ∧
      (∀ k : Fin 15, (BitVec.ofNat 8 (0x40 + k.val)).extractLsb' 6 2 = 0b01#2) ∧
      ∀ k : Fin 5, (BitVec.ofNat 8 (0xC0 + k.val)).extractLsb' 6 2 = 0b11#2 := by decide

theorem LabelFormat.probe : LabelFormat.Statement .probe := fun _ => ⟨op_commandWord _ _ _ _, format_of_code.1 0⟩

theorem LabelFormat.adcAsyncRead (chan : BitVec 4) (avg : BitVec 2) (f : Byte) (param : BitVec 32) :
    LabelFormat.Statement (.adcAsyncRead chan avg f param) :=
  fun _ => ⟨op_commandWord _ _ _ _, format_of_code.1 1⟩

theorem LabelFormat.adcSyncRead (chan : BitVec 4) (avg : BitVec 2) (w : Byte) :
    LabelFormat.Statement (.adcSyncRead chan avg w) :=
  fun _ => ⟨op_commandWord _ _ _ _, format_of_code.1 2⟩

theorem LabelFormat.batteryVoltage (w : Byte) : LabelFormat.Statement (.batteryVoltage w) :=
  fun _ => ⟨op_commandWord _ _ _ _, format_of_code.1 3⟩

theorem LabelFormat.notifyUsbCurlim (ma : BitVec 16) : LabelFormat.Statement (.notifyUsbCurlim ma) :=
  fun _ => ⟨op_commandWord _ _ _ _, format_of_code.1 4⟩

theorem LabelFormat.readRegisterBlock (reg : Byte) (count : Byte) :
    LabelFormat.Statement (.readRegisterBlock reg count) :=
  fun _ => ⟨op_commandWord _ _ _ _, format_of_code.1 5⟩

theorem LabelFormat.writeRegisterBlock (reg : Byte) (count : Byte) (data : List Byte) :
    LabelFormat.Statement (.writeRegisterBlock reg count data) :=
  fun _ => ⟨op_commandWord _ _ _ _, format_of_code.1 6⟩

theorem LabelFormat.setBits (reg : Byte) (mask : Byte) : LabelFormat.Statement (.setBits reg mask) :=
  fun _ => ⟨op_commandWord _ _ _ _, format_of_code.1 7⟩

theorem LabelFormat.clearBits (reg : Byte) (mask : Byte) : LabelFormat.Statement (.clearBits reg mask) :=
  fun _ => ⟨op_commandWord _ _ _ _, format_of_code.1 8⟩

theorem LabelFormat.ready : LabelFormat.Statement .ready := fun _ => ⟨op_commandWord _ _ _ _, format_of_code.1 9⟩

theorem LabelFormat.waitUntilReady (timeout : BitVec 16) (w : Byte) :
    LabelFormat.Statement (.waitUntilReady timeout w) :=
  fun _ => ⟨op_commandWord _ _ _ _, format_of_code.1 10⟩

theorem LabelFormat.goStandby : LabelFormat.Statement .goStandby :=
  fun _ => ⟨op_commandWord _ _ _ _, format_of_code.1 11⟩

theorem LabelFormat.suspend : LabelFormat.Statement .suspend := fun _ => ⟨op_commandWord _ _ _ _, format_of_code.1 12⟩

theorem LabelFormat.resume : LabelFormat.Statement .resume := fun _ => ⟨op_commandWord _ _ _ _, format_of_code.1 13⟩

theorem LabelFormat.adcEnqueue (chan : BitVec 4) (avg : BitVec 2) (target : Target) (param : Nat) :
    LabelFormat.Statement (.adcEnqueue chan avg target param) :=
  fun _ => ⟨rfl, Or.inl (format_of_code.2.1 0)⟩

theorem LabelFormat.adcStart (r : AdcRequest) : LabelFormat.Statement (.adcStart r) :=
  fun _ => ⟨rfl, Or.inl (format_of_code.2.1 1)⟩

theorem LabelFormat.adcComplete : LabelFormat.Statement .adcComplete := fun _ => ⟨rfl, Or.inl (format_of_code.2.1 2)⟩

theorem LabelFormat.classify (sample : Int) (usbPresent : Bool) :
    LabelFormat.Statement (.classify sample usbPresent) :=
  fun _ => ⟨rfl, Or.inl (format_of_code.2.1 3)⟩

theorem LabelFormat.applyPolicy (type : ChargerType) : LabelFormat.Statement (.applyPolicy type) :=
  fun _ => ⟨rfl, Or.inl (format_of_code.2.1 4)⟩

theorem LabelFormat.setCurrentLimit (ma : Nat) : LabelFormat.Statement (.setCurrentLimit ma) :=
  fun _ => ⟨rfl, Or.inl (format_of_code.2.1 5)⟩

theorem LabelFormat.chargeEnable (on : Bool) : LabelFormat.Statement (.chargeEnable on) :=
  fun _ => ⟨rfl, Or.inl (format_of_code.2.1 6)⟩

theorem LabelFormat.autoresumeHandshake : LabelFormat.Statement .autoresumeHandshake :=
  fun _ => ⟨rfl, Or.inl (format_of_code.2.1 7)⟩

theorem LabelFormat.classifyTrigger : LabelFormat.Statement .classifyTrigger :=
  fun _ => ⟨rfl, Or.inl (format_of_code.2.1 8)⟩

theorem LabelFormat.classifyDone (snapshot : Nat) (result : Int) :
    LabelFormat.Statement (.classifyDone snapshot result) :=
  fun _ => ⟨rfl, Or.inl (format_of_code.2.1 9)⟩

theorem LabelFormat.curlimTask : LabelFormat.Statement .curlimTask := fun _ => ⟨rfl, Or.inl (format_of_code.2.1 10)⟩

theorem LabelFormat.batfullDance : LabelFormat.Statement .batfullDance := fun _ => ⟨rfl, Or.inl (format_of_code.2.1 11)⟩

theorem LabelFormat.dispatch : LabelFormat.Statement .dispatch := fun _ => ⟨rfl, Or.inl (format_of_code.2.1 12)⟩

theorem LabelFormat.nobatStart : LabelFormat.Statement .nobatStart := fun _ => ⟨rfl, Or.inl (format_of_code.2.1 13)⟩

theorem LabelFormat.nobatPoll : LabelFormat.Statement .nobatPoll := fun _ => ⟨rfl, Or.inl (format_of_code.2.1 14)⟩

theorem LabelFormat.evChgIns : LabelFormat.Statement .evChgIns := fun _ => ⟨rfl, .chgIns, rfl, rfl⟩

theorem LabelFormat.evChgRem : LabelFormat.Statement .evChgRem := fun _ => ⟨rfl, .chgRem, rfl, rfl⟩

theorem LabelFormat.evUsbIns : LabelFormat.Statement .evUsbIns := fun _ => ⟨rfl, .usbIns, rfl, rfl⟩

theorem LabelFormat.evUsbRem : LabelFormat.Statement .evUsbRem := fun _ => ⟨rfl, .usbRem, rfl, rfl⟩

theorem LabelFormat.evAlarm : LabelFormat.Statement .evAlarm := fun _ => ⟨rfl, .alarm, rfl, rfl⟩

theorem LabelFormat.evTick : LabelFormat.Statement .evTick := fun _ => ⟨rfl, .tick, rfl, rfl⟩

theorem LabelFormat.evOnkeyF : LabelFormat.Statement .evOnkeyF := fun _ => ⟨rfl, .onkeyF, rfl, rfl⟩

theorem LabelFormat.evOnkeyR : LabelFormat.Statement .evOnkeyR := fun _ => ⟨rfl, .onkeyR, rfl, rfl⟩

theorem LabelFormat.evOnkey1s : LabelFormat.Statement .evOnkey1s := fun _ => ⟨rfl, .onkey1s, rfl, rfl⟩

theorem LabelFormat.evBatfull : LabelFormat.Statement .evBatfull := fun _ => ⟨rfl, .batfull, rfl, rfl⟩

theorem LabelFormat.evChghalt : LabelFormat.Statement .evChghalt := fun _ => ⟨rfl, .chghalt, rfl, rfl⟩

theorem LabelFormat.evThlimOn : LabelFormat.Statement .evThlimOn := fun _ => ⟨rfl, .thlimOn, rfl, rfl⟩

theorem LabelFormat.evThlimOff : LabelFormat.Statement .evThlimOff := fun _ => ⟨rfl, .thlimOff, rfl, rfl⟩

theorem LabelFormat.evUsblimOn : LabelFormat.Statement .evUsblimOn := fun _ => ⟨rfl, .usblimOn, rfl, rfl⟩

theorem LabelFormat.evUsblimOff : LabelFormat.Statement .evUsblimOff := fun _ => ⟨rfl, .usblimOff, rfl, rfl⟩

theorem LabelFormat.evAdcRdy : LabelFormat.Statement .evAdcRdy := fun _ => ⟨rfl, .adcRdy, rfl, rfl⟩

theorem LabelFormat.evLowbat : LabelFormat.Statement .evLowbat := fun _ => ⟨rfl, .lowbat, rfl, rfl⟩

theorem LabelFormat.evLowsys : LabelFormat.Statement .evLowsys := fun _ => ⟨rfl, .lowsys, rfl, rfl⟩

theorem LabelFormat.evHightemp : LabelFormat.Statement .evHightemp := fun _ => ⟨rfl, .hightemp, rfl, rfl⟩

theorem LabelFormat.evAutopwrfail : LabelFormat.Statement .evAutopwrfail := fun _ => ⟨rfl, .autopwrfail, rfl, rfl⟩

theorem LabelFormat.evSubregFail0 : LabelFormat.Statement .evSubregFail0 := fun _ => ⟨rfl, .subregFail 0, rfl, rfl⟩

theorem LabelFormat.evSubregFail1 : LabelFormat.Statement .evSubregFail1 := fun _ => ⟨rfl, .subregFail 1, rfl, rfl⟩

theorem LabelFormat.evSubregFail2 : LabelFormat.Statement .evSubregFail2 := fun _ => ⟨rfl, .subregFail 2, rfl, rfl⟩

theorem LabelFormat.evSubregFail3 : LabelFormat.Statement .evSubregFail3 := fun _ => ⟨rfl, .subregFail 3, rfl, rfl⟩

theorem LabelFormat.evSubregFail4 : LabelFormat.Statement .evSubregFail4 := fun _ => ⟨rfl, .subregFail 4, rfl, rfl⟩

theorem LabelFormat.evSubregFail5 : LabelFormat.Statement .evSubregFail5 := fun _ => ⟨rfl, .subregFail 5, rfl, rfl⟩

theorem LabelFormat.evSubregFail6 : LabelFormat.Statement .evSubregFail6 := fun _ => ⟨rfl, .subregFail 6, rfl, rfl⟩

theorem LabelFormat.evSubregFail7 : LabelFormat.Statement .evSubregFail7 := fun _ => ⟨rfl, .subregFail 7, rfl, rfl⟩

theorem LabelFormat.evSubregFail8 : LabelFormat.Statement .evSubregFail8 := fun _ => ⟨rfl, .subregFail 8, rfl, rfl⟩

theorem LabelFormat.evSubregFail9 : LabelFormat.Statement .evSubregFail9 := fun _ => ⟨rfl, .subregFail 9, rfl, rfl⟩

theorem LabelFormat.evLedFail : LabelFormat.Statement .evLedFail := fun _ => ⟨rfl, .ledFail, rfl, rfl⟩

theorem LabelFormat.evLedOvp : LabelFormat.Statement .evLedOvp := fun _ => ⟨rfl, .ledOvp, rfl, rfl⟩

theorem LabelFormat.pmuRaise (i : Fin 5) (b : Fin 8) : LabelFormat.Statement (.pmuRaise i b) :=
  fun _ => ⟨rfl, Or.inr (format_of_code.2.2 0)⟩

theorem LabelFormat.adcHwDone (value : BitVec 10) : LabelFormat.Statement (.adcHwDone value) :=
  fun _ => ⟨rfl, Or.inr (format_of_code.2.2 1)⟩

theorem LabelFormat.irqEdge : LabelFormat.Statement .irqEdge := fun _ => ⟨rfl, Or.inr (format_of_code.2.2 2)⟩

theorem LabelFormat.envSetStatus (reg : StatusReg) (v : Byte) : LabelFormat.Statement (.envSetStatus reg v) := by
  cases reg <;> exact fun _ => ⟨rfl, Or.inr (format_of_code.2.2 3)⟩

theorem LabelFormat.envRtcWant (b : Bool) : LabelFormat.Statement (.envRtcWant b) :=
  fun _ => ⟨rfl, Or.inr (format_of_code.2.2 4)⟩

end Sys2Proof.Laws
end

