-- ==== Sys2Proof/Tests/Slice0.lean ====
section
/-! SUPPORT. Tests: well-formedness, the decoding of words written out from the spec's encodings, one step of each
operation against 95_test_vectors.md (the vector is named before each test), and for each statement with hypotheses a
state that meets them. -/

namespace Sys2Proof.Tests

open Sys2Proof.Machine

/-! ### Well-formed operations -/

theorem test_wf_adcEnqueue : (Instr.adcEnqueue 7 3 (.callback 1) (2 ^ 32)).WellFormed = false := by decide
theorem test_wf_adcEnqueue_ok : (Instr.adcEnqueue 7 3 (.callback 1) (2 ^ 32 - 1)).WellFormed = true := by decide
theorem test_wf_adcEnqueue_classify : (Instr.adcEnqueue 7 3 .classify (2 ^ 32)).WellFormed = true := by decide
theorem test_wf_adcStart : (Instr.adcStart ⟨7, 3, .sync 1, 2 ^ 32⟩).WellFormed = false := by decide
theorem test_wf_classify_high : (Instr.classify 1024 true).WellFormed = false := by decide
theorem test_wf_classify_low : (Instr.classify (-1) true).WellFormed = false := by decide
theorem test_wf_classifyDone : (Instr.classifyDone 0 1024).WellFormed = false := by decide
theorem test_wf_config : Config.test.wf = true := by decide
theorem test_wf_config_depth : { Config.test with depth := 6 }.wf = false := by decide
theorem test_wf_config_resultBits : { Config.test with resultBits := 12 }.wf = false := by decide
theorem test_wf_config_map : { Config.test with aIntm := 0x06 }.wf = false := by decide

/-! ### Decoding of written-out words -/

/-- The decoded operation, if there is one. -/
def dec (w : OpWord) : Option Instr := (decode Config.test w).toOption

/-- A command word with zero sidebands. -/
def cw (w : CommandWord) : Option Instr := dec (.command w 0 [])

/-- 95_test_vectors.md V1.1 to V1.9. -/
theorem test_decode_commands_low :
    cw 0x00000000 = some .probe ∧ cw 0x01070301 = some (.adcAsyncRead 7 3 1 0) ∧
      cw 0x01F7FF01 = some (.adcAsyncRead 7 3 1 0) ∧ cw 0x02000002 = some (.adcSyncRead 0 0 2) ∧
      cw 0x03000005 = some (.batteryVoltage 5) ∧ cw 0x0401F400 = some (.notifyUsbCurlim 500) ∧
      cw 0x0402EE00 = some (.notifyUsbCurlim 750) ∧ cw 0x04FFFF00 = some (.notifyUsbCurlim 65535) ∧
      cw 0x05490100 = some (.readRegisterBlock 0x49 1) := by decide

/-- 95_test_vectors.md V1.10 to V1.22. -/
theorem test_decode_commands_high :
    dec (.command 0x06070500 0 [0, 0, 0, 0, 0]) = some (.writeRegisterBlock 0x07 5 [0, 0, 0, 0, 0]) ∧
      cw 0x07078000 = some (.setBits 0x07 0x80) ∧ cw 0x08078000 = some (.clearBits 0x07 0x80) ∧
      cw 0x09000000 = some .ready ∧ cw 0x0A03E804 = some (.waitUntilReady 1000 4) ∧
      cw 0x0B000000 = some .goStandby ∧ cw 0x0C000000 = some .suspend ∧ cw 0x0D000000 = some .resume ∧
      cw 0x00ABCDEF = some .probe ∧ cw 0x0E000000 = none ∧ cw 0x40000000 = none ∧ cw 0x8F000000 = none ∧
      cw 0xFFFFFFFF = none := by decide

/-- Label codes of 30_encoding.md R113, target and type codes of R110. -/
theorem test_decode_micro_operations :
    dec (.label 0x40 [7, 3, 0, 2, 5]) = some (.adcEnqueue 7 3 (.sync 2) 5) ∧
      dec (.label 0x40 [7, 3, 1, 2, 5]) = some (.adcEnqueue 7 3 (.callback 2) 5) ∧
      dec (.label 0x40 [7, 3, 2, 0, 5]) = some (.adcEnqueue 7 3 .classify 5) ∧
      dec (.label 0x41 [2, 1, 1, 1, 170]) = some (.adcStart ⟨2, 1, .callback 1, 170⟩) ∧
      dec (.label 0x42 []) = some .adcComplete ∧ dec (.label 0x43 [23, 0]) = some (.classify 23 false) ∧
      dec (.label 0x44 [0]) = some (.applyPolicy .none) ∧ dec (.label 0x44 [1]) = some (.applyPolicy .hostLimited) ∧
      dec (.label 0x44 [2]) = some (.applyPolicy .oneAmp) ∧ dec (.label 0x45 [750]) = some (.setCurrentLimit 750) ∧
      dec (.label 0x46 [1]) = some (.chargeEnable true) ∧ dec (.label 0x47 []) = some .autoresumeHandshake ∧
      dec (.label 0x48 []) = some .classifyTrigger ∧ dec (.label 0x49 [1, 10]) = some (.classifyDone 1 10) ∧
      dec (.label 0x4A []) = some .curlimTask ∧ dec (.label 0x4B []) = some .batfullDance ∧
      dec (.label 0x4C []) = some .dispatch ∧ dec (.label 0x4D []) = some .nobatStart ∧
      dec (.label 0x4E []) = some .nobatPoll := by decide

/-- Label codes of 30_encoding.md R113; a code of no row, a missing row between two ranges, an operand out of range. -/
theorem test_decode_environment :
    dec (.label 0xC0 [2, 6]) = some (.pmuRaise 2 6) ∧ dec (.label 0xC1 [1023]) = some (.adcHwDone 1023) ∧
      dec (.label 0xC2 []) = some .irqEdge ∧ dec (.label 0xC3 [0, 3]) = some (.envSetStatus .pwrstat 3) ∧
      dec (.label 0xC3 [1, 255]) = some (.envSetStatus .batstat 255) ∧ dec (.label 0xC4 [1]) = some (.envRtcWant true) ∧
      dec (.label 0x3F []) = none ∧ dec (.label 0x4F []) = none ∧ dec (.label 0xBF []) = none ∧
      dec (.label 0xC5 []) = none ∧ dec (.label 0xC0 [5, 0]) = none ∧ dec (.label 0xC1 [1024]) = none ∧
      dec (.label 0x42 [0]) = none := by decide

/-- The layout of 30_encoding.md R103: one written block for each event up to EV_ADC_RDY. -/
theorem test_decode_events_low :
    ([0x0000000001, 0x0000000002, 0x0000000004, 0x0000000008, 0x0000000040, 0x0000000080, 0x0000000200, 0x0000000100,
        0x0000800000, 0x0000010000, 0x0000020000, 0x0000040000, 0x0000080000, 0x0000100000, 0x0000200000,
        0x0000400000].map fun b => dec (.status b)) =
      [Instr.evChgIns, .evChgRem, .evUsbIns, .evUsbRem, .evAlarm, .evTick, .evOnkeyF, .evOnkeyR, .evOnkey1s, .evBatfull,
        .evChghalt, .evThlimOn, .evThlimOff, .evUsblimOn, .evUsblimOff, .evAdcRdy].map some := by decide

/-- The layout of 30_encoding.md R103: the events from EV_LOWBAT on; a block with no named event. -/
theorem test_decode_events_high :
    ([0x0002000000, 0x0001000000, 0x0004000000, 0x0008000000, 0x0010000000, 0x0020000000, 0x0100000000, 0x0200000000,
        0x0400000000, 0x0800000000, 0x1000000000, 0x2000000000, 0x4000000000, 0x8000000000, 0x0040000000,
        0x0080000000, 0x000000FC30].map fun b => dec (.status b)) =
      [some Instr.evLowbat, some .evLowsys, some .evHightemp, some .evAutopwrfail, some .evSubregFail0,
        some .evSubregFail1, some .evSubregFail2, some .evSubregFail3, some .evSubregFail4, some .evSubregFail5,
        some .evSubregFail6, some .evSubregFail7, some .evSubregFail8, some .evSubregFail9, some .evLedFail,
        some .evLedOvp, none] := by decide

/-- Rows of spec/opcode_table.json through the table's numbering. -/
theorem test_table_words :
    decodeTableWord 32 0x05000000 = some (.readRegisterBlock 0 0) ∧ decodeTableWord 8 0x4C = some .dispatch ∧
      decodeTableWord 8 0xC2 = some .irqEdge ∧ decodeTableWord 40 0x8000000000 = some .evSubregFail9 ∧
      decodeTableWord 8 0x01 = some .evChgIns := by decide

/-! ### States -/

/-- A meaning's next state, looked at through `f`. -/
def after {α : Type} (r : Result) (f : State → α) : Option α :=
  match r with
  | .next t => some (f t)
  | .fault _ => none
  | .refused _ => none

/-- State `S1` of 95_test_vectors.md: the end of program P1. -/
def s1 : State :=
  { State.reset with
    flags := ⟨false, true, true, false, false, false⟩
    coldplugDone := true
    head := 1
    tail := 1
    regs := [(0x07, 0x80), (0x43, 0x0D), (0x47, 0xFF), (0x49, 0x42), (0x4B, 0x03), (0x4C, 0x01), (0x54, 0x7D),
      (0x55, 0x02), (0x57, 0xF2)] }

/-- `S1` with a register set. -/
def s1r (a : Nat) (v : Byte) : State := s1.setReg a v

/-- `S1` in a pass over a block, at a micro-step. -/
def inPass (block : Block) (m : MicroStep) : State := { s1 with disp := .running, pass := some ⟨block, m, false⟩ }

/-- `S1` in a pass whose block holds one event, at that event. -/
def at_ (e : Event) : State := inPass (Config.test.eventMask e) (.event e)

/-- `S1` with one request pending, its conversion running. -/
def busy (t : Target) (p : Nat) : State :=
  { s1 with
    slots := [none, some ⟨2, 1, t, p⟩, none, none, none, none, none, none]
    head := 2
    adcHw := .converting 2 1 }

/-- `S1` with a full FIFO. -/
def fullQueue : State :=
  { s1 with
    slots := some ⟨2, 1, .callback 1, 0⟩ :: none :: List.replicate 6 (some ⟨2, 1, .callback 1, 0⟩)
    head := 1
    tail := 2 }

/-- `S1` in another suspend state. -/
def susp (x : SuspendState) : State := { s1 with suspend := x }

/-! ### Step and fetch -/

/-- The word placed by `withFetchWord` is what the next step runs: a command, a label, a block. -/
theorem test_fetch :
    after (step (State.reset.withFetchWord 32 0x09000000)) State.returns = some [⟨none, .bool true⟩] ∧
      after (step (State.reset.withFetchWord 8 0x48)) State.adcHw = some (.converting 7 3) ∧
      after (step (State.reset.withFetchWord 40 0x0000000001)) State.outputs =
        some [.notify .chargerInsert, .inputPower true, .platform .statusChanged] := by decide

/-- 30_encoding.md R100: no turn selects an internal micro-operation, a task's turn is its own. -/
theorem test_uop_not_selectable :
    step { s1 with port := [plainTurn (.label 0x48 [])] } = .refused (.undecodable (.notSelectable 0x48)) ∧
      after (step { s1 with port := [plainTurn (.label 0x4A [])] }) State.port = some [] := ⟨rfl, by decide⟩

/-- 10_state.md R24: a finite COUNTER_BITS wraps, the spec's own does not. -/
theorem test_counterBits :
    ({ Config.test with counterBits := some 2 }.countAfter 3, Config.test.countAfter 3) = (0, 4) := by decide

/-- V1.18. -/
theorem test_illegal_command :
    after (step { s1 with port := [plainTurn (.command 0x0E000000 0 [])] }) State.returns =
      some [⟨none, .error .access⟩] := by decide

/-! ### Host commands -/

/-- 10_state.md R61 and 43_suspend_and_tasks.md R274; V5.11. -/
theorem test_probe :
    after (exec .probe { s1 with probed := false }) (fun t => (t.returns, t.head, t.coldplugDone, t.probed)) =
        some ([⟨none, .value 0⟩], 0, false, true) ∧
      after (exec .probe s1) (fun t => (t.returns, t.head)) = some ([⟨none, .error .busy⟩], 1) := by decide

/-- Program P2 step 1. -/
theorem test_adcAsyncRead :
    after (exec (.adcAsyncRead 2 1 1 0xAA) s1) (fun t => (t.slot 1, t.head, t.reg 0x54, t.adcHw, t.returns)) =
      some (some ⟨2, 1, .callback 1, 0xAA⟩, 2, 0x25, .converting 2 1, [⟨none, .value 0⟩]) := by decide

/-- Program P2 step 2: queued behind a running conversion, no register written, the caller blocks. -/
theorem test_adcSyncRead :
    after (exec (.adcSyncRead 0 0 2) (busy (.callback 1) 0xAA))
        (fun t => ((t.slot 2, t.head, t.reg 0x54), t.adcHw, t.waiters, t.returns)) =
      some ((some ⟨0, 0, .sync 2, 0⟩, 3, 0x7D), .converting 2 1, [⟨2, .adcRead, none⟩], []) := by decide

/-- Section 2.2, the battery voltage: request `(0, 3, Sync(5), 0)`, control byte `0x0D`. -/
theorem test_batteryVoltage :
    after (exec (.batteryVoltage 5) s1) (fun t => (t.slot 1, t.reg 0x54, t.waiters)) =
      some (some ⟨0, 3, .sync 5, 0⟩, 0x0D, [⟨5, .battery, none⟩]) := by decide

/-- V2.41 to V2.43, V2.45: the scale; the wake-ups of the two readers of raw result 682. -/
theorem test_millivolts :
    ([1, 512, 682].map (millivolts Config.test)) = [5, 3002, 4000] ∧
      millivolts { Config.test with battMvOffset := 100 } 682 = 4100 ∧
      (wakeCaller 5 { s1 with waiters := [⟨5, .battery, some 682⟩] }).returns = [⟨some 5, .value 4000⟩] ∧
      (wakeCaller 5 { s1 with waiters := [⟨5, .adcRead, some 682⟩] }).returns = [⟨some 5, .value 682⟩] := by decide

/-- V3.44 first two steps, V3.46. -/
theorem test_notifyUsbCurlim :
    after (exec (.notifyUsbCurlim 100) { s1 with curlim := ⟨.idle, true, 500, 0⟩ }) State.curlim =
        some ⟨.idle, true, 100, 0⟩ ∧
      after (exec (.notifyUsbCurlim 500) { s1 with probed := false }) State.returns =
        some [⟨none, .error .access⟩] := by decide

/-- V5.30, V5.32 to V5.34. -/
theorem test_readRegisterBlock :
    after (exec (.readRegisterBlock 0x49 1) s1) State.returns = some [⟨none, .bytes [0x42]⟩] ∧
      after (exec (.readRegisterBlock 0xFE 2) s1) State.returns = some [⟨none, .bytes [0, 0]⟩] ∧
      after (exec (.readRegisterBlock 0xFF 2) s1) State.returns = some [⟨none, .error .range⟩] ∧
      after (exec (.readRegisterBlock 0x10 0) s1) State.returns = some [⟨none, .error .range⟩] := by decide

/-- V5.37: only the register read is cleared. -/
theorem test_readRegisterBlock_clears :
    after (exec (.readRegisterBlock 0x04 1) ((s1r 0x02 0x01).setReg 0x04 0x40))
        (fun t => (t.returns, t.reg 0x02, t.reg 0x04)) =
      some ([⟨none, .bytes [0x40]⟩], 0x01, 0x00) := by decide

/-- V5.38, V5.39. -/
theorem test_writeRegisterBlock :
    after (exec (.writeRegisterBlock 0x07 5 [0, 0, 0, 0, 0]) s1) (fun t => (t.reg 0x07, t.reg 0x0C, t.returns)) =
        some (0, 0, [⟨none, .value 0⟩]) ∧
      after (exec (.writeRegisterBlock 0x07 5 [0, 0, 0, 0]) s1) (fun t => (t.reg 0x07, t.returns)) =
        some (0x80, [⟨none, .error .range⟩]) := by decide

/-- V5.40; a mask that adds a bit (30_encoding.md R108). -/
theorem test_setBits :
    after (exec (.setBits 0x43 0x00) s1) (fun t => (t.reg 0x43, t.returns)) = some (0x0D, [⟨none, .value 0⟩]) ∧
      after (exec (.setBits 0x43 0x02) s1) (fun t => t.reg 0x43) = some 0x0F := by decide

/-- V5.41, V4.60, V4.61: unmasking a latched tick raises the line. -/
theorem test_clearBits :
    (s1r 0x02 0x80).irqLine = false ∧
      after (exec (.clearBits 0x07 0x80) (s1r 0x02 0x80)) (fun t => (t.reg 0x07, t.irqLine)) = some (0x00, true) := by
  decide

/-- V5.20 to V5.23. -/
theorem test_ready :
    ([{ s1 with probed := false }, s1, susp .startingSuspend, susp .completedSuspend, susp .startingResume,
        susp .completedResume].map fun s => after (exec .ready s) State.returns) =
      [false, true, false, false, false, true].map fun b => some [⟨none, .bool b⟩] := by decide

/-- V5.24 to V5.28. -/
theorem test_waitUntilReady :
    after (exec (.waitUntilReady 1000 4) s1) State.returns = some [⟨some 4, .value 0⟩] ∧
      after (exec (.waitUntilReady 10 4) { susp .completedSuspend with now := 50 }) State.waiters =
        some [⟨4, .ready 60, none⟩] ∧
      (wakeCaller 4 { susp .completedSuspend with now := 60, waiters := [⟨4, .ready 60, none⟩] }).returns =
        [⟨some 4, .error .timeout⟩] ∧
      (wakeCaller 4 { susp .completedSuspend with now := 59, waiters := [⟨4, .ready 60, none⟩] }).returns = [] ∧
      (wakeCaller 4 { susp .completedResume with now := 70, waiters := [⟨4, .ready 60, none⟩] }).returns =
        [⟨some 4, .value 0⟩] := by decide

/-- Section 2.5, GO_STANDBY. -/
theorem test_goStandby :
    after (exec .goStandby s1) (fun t => (t.reg 0x0C, t.standbyIssued, t.returns)) =
        some (0x01, true, [⟨none, .value 0⟩]) ∧
      after (exec .goStandby (susp .completedSuspend)) (fun t => (t.reg 0x0C, t.outputs, t.returns)) =
        some (0x00, [.defect .suspendViolation], [⟨none, .error .suspendViolation⟩]) := by decide

/-- V5.1, V5.6, V5.8. -/
theorem test_suspend :
    after (exec .suspend s1) (fun t => (t.suspend, t.returns)) = some (.startingSuspend, []) ∧
      after (exec .suspend { s1 with disp := .running }) State.returns = some [⟨none, .error .busy⟩] ∧
      after (exec .suspend (susp .completedSuspend)) State.returns = some [⟨none, .error .busy⟩] := by decide

/-- V5.2: the second part, with the falling edge of the key as the only resumer. -/
theorem test_suspend_finish :
    (fun t : State => (t.savedMask, t.readBlock 0x07 5, t.irqDelivery, t.suspend, t.returns))
        (coordinatorFinish
          { susp .startingSuspend with cfg := { Config.test with resumers := ⟨0x00, 0x02, 0x00, 0x00, 0x00⟩ } }) =
      (⟨0x80, 0, 0, 0, 0⟩, [0xFF, 0xFD, 0xFF, 0xFF, 0xFF], false, .completedSuspend, [⟨none, .value 0⟩]) := by decide

/-- V5.9; V5.5, the first part. -/
theorem test_resume :
    after (exec .resume s1) State.returns = some [⟨none, .error .busy⟩] ∧
      after (exec .resume (susp .completedSuspend)) (fun t => (t.suspend, t.returns)) =
        some (.startingResume, []) := by decide

/-- V5.5, the second part, with a saved mask that does not mask the tick. -/
theorem test_resume_finish :
    (fun t : State => (t.readBlock 0x07 5, t.irqDelivery, t.suspend, t.dispatchReq, t.returns))
        (coordinatorFinish { susp .startingResume with savedMask := ⟨0x01, 0x02, 0x03, 0x04, 0x05⟩ }) =
      ([0x81, 0x02, 0x03, 0x04, 0x05], true, .completedResume, true, [⟨none, .value 0⟩]) := by decide

/-! ### Micro-operations -/

/-- V2.14: stored in slot 7, the index wraps; V2.15: full. -/
theorem test_adcEnqueue :
    after (exec (.adcEnqueue 1 2 (.sync 9) 5) { busy .classify 0 with head := 7 })
        (fun t => (t.slot 7, t.head, t.reg 0x54, t.returns)) =
        some (some ⟨1, 2, .sync 9, 5⟩, 0, 0x7D, [⟨none, .value 0⟩]) ∧
      after (exec (.adcEnqueue 1 2 (.sync 9) 5) fullQueue) (fun t => (t.slots == fullQueue.slots, t.outputs, t.returns)) =
        some (true, [.defect .adcQueueFull], [⟨none, .error .queueFull⟩]) := by decide

/-- V2.4, V2.5. -/
theorem test_adcStart :
    after (exec (.adcStart ⟨2, 1, .classify, 0⟩) s1) (fun t => (t.reg 0x54, t.adcHw)) =
        some (0x25, .converting 2 1) ∧
      after (exec (.adcStart ⟨15, 0, .classify, 0⟩) s1) (fun t => t.reg 0x54) = some 0xF1 := by decide

/-- Program P1 step 7: result 10, a one-ampere charger, the 1000 mA tier. -/
theorem test_adcComplete_classify :
    after (exec .adcComplete { busy .classify 0 with regs := [(0x19, 0x07), (0x49, 0x40), (0x55, 0x02), (0x57, 0xF2)] })
        (fun t => ((t.outputs, t.tail, t.slot 1), t.reg 0x19, t.reg 0x49, t.reg 0x43, t.reg 0x47)) =
      some (([.adcDone .classify 0 10, .notify .chargerActive], 2, none), 0x00, 0x42, 0x0D, 0xFF) := by decide

/-- Program P2 step 9 and section 2.2: the caller of the request gets the raw result; an empty FIFO is a defect. -/
theorem test_adcComplete_sync :
    after (exec .adcComplete
        { busy (.sync 2) 0 with
          regs := [(0x55, 0x80), (0x57, 0xA4)], waiters := [⟨1, .adcRead, none⟩, ⟨2, .adcRead, none⟩] })
        (fun t => (t.outputs, t.waiters)) =
        some ([.adcDone (.sync 2) 0 512], [⟨1, .adcRead, none⟩, ⟨2, .adcRead, some 512⟩]) ∧
      after (exec .adcComplete s1) (fun t => (t.outputs, t.tail)) = some ([.defect .adcReadyEmptyFifo], 1) := by decide

/-- V2.20 to V2.28. -/
theorem test_result :
    ([(0x00, 0x00), (0x06, 0x01), (0x06, 0xF1), (0xFF, 0x03), (0xFF, 0xFC), (0x80, 0x00), (0x00, 0xFF), (0x05, 0x03),
        (0x06, 0x00)].map fun p : Byte × Byte => (assembleResult Config.test p.1 p.2).toNat) =
      [0, 25, 25, 1023, 1020, 512, 3, 23, 24] := by decide

/-- V3.1 to V3.10. -/
theorem test_classify :
    ([(0, false), (0, true), (23, false), (23, true), (24, false), (24, true), (25, true), (1023, false),
        (1023, true)].map fun p : Int × Bool => after (exec (.classify p.1 p.2) s1) State.returns) =
        [ChargerType.oneAmp, .oneAmp, .oneAmp, .oneAmp, .none, .hostLimited, .hostLimited, .none,
          .hostLimited].map (fun c => some [⟨none, .charger c⟩]) ∧
      classifySample { Config.test with detectNone := 11, detect1A := 10 } 10 true = .hostLimited := by decide

/-- V3.24, V3.27, V3.29. -/
theorem test_applyPolicy :
    after (exec (.applyPolicy .hostLimited) s1) (fun t => (t.reg 0x49, t.reg 0x47)) = some (0x40, 0xFF) ∧
      after (exec (.applyPolicy .hostLimited) { s1 with lastCurlim := 500 }) (fun t => t.reg 0x49) = some 0x41 ∧
      after (exec (.applyPolicy .oneAmp) (s1r 0x19 0x0F)) (fun t => (t.reg 0x19, t.reg 0x49)) = some (0x08, 0x42) := by
  decide

/-- V3.11 to V3.22, from `USBLIM = 0xFF`. -/
theorem test_setCurrentLimit :
    ([0, 50, 99, 100, 101, 499, 500, 750, 999, 1000, 1001, 65535].map fun ma =>
        after (exec (.setCurrentLimit ma) (s1r 0x49 0xFF)) fun t => (t.reg 0x49, t.flags.chgEnabled)) =
      [(0xFF, false), (0xFF, false), (0xFF, false), (0xFC, false), (0xFC, false), (0xFC, false), (0xFD, true),
        (0xFD, true), (0xFD, true), (0xFE, true), (0xFE, true), (0xFE, true)].map some := by decide

/-- V3.30, V3.33. -/
theorem test_chargeEnable :
    after (exec (.chargeEnable true) (s1r 0x43 0x00)) (fun t => (t.reg 0x43, t.outputs)) =
        some (0x01, [.notify .chargerActive]) ∧
      after (exec (.chargeEnable false) s1) (fun t => (t.reg 0x43, t.flags.chgEnabled, t.outputs)) =
        some (0x0C, false, [.notify .chargerIdle]) := by decide

/-- V3.34; V3.33 with the other value of the parameter. -/
theorem test_chargeEnable_parameters :
    after (exec (.chargeEnable false) { s1 with cfg := { Config.test with featCharger := false } })
        (fun t => (t.reg 0x43, t.flags.chgEnabled, t.outputs)) = some (0x0D, true, []) ∧
      after (exec (.chargeEnable false)
          { s1 with
            cfg := { Config.test with chgIdleNotifyNeedsUsb := true }
            flags := ⟨false, false, true, false, false, false⟩ }) State.outputs = some [] := by decide

/-- V3.35 to V3.38. -/
theorem test_autoresumeHandshake :
    ([0x05, 0x00, 0xFF, 0xF0].map fun v => after (exec .autoresumeHandshake (s1r 0x43 v)) fun t => t.reg 0x43) =
      [some 0x0D, some 0x0C, some 0xFF, some 0xFC] := by decide

/-- 41_charger_fsm.md R176: the request of V4.4; a full FIFO. -/
theorem test_classifyTrigger :
    after (exec .classifyTrigger { s1 with usbRemovalCount := 1 }) (fun t => (t.slot 1, t.reg 0x54)) =
        some (some ⟨7, 3, .classify, 1⟩, 0x7D) ∧
      after (exec .classifyTrigger fullQueue) State.outputs =
        some [.defect .adcQueueFull, .warn .classifyDropped] := by decide

/-- Program P1 step 7, program P5 step 7: the current snapshot acts, a stale one does not. -/
theorem test_classifyDone :
    after (exec (.classifyDone 0 100) s1) (fun t => t.reg 0x49) = some 0x40 ∧
      after (exec (.classifyDone 0 100) { s1 with usbRemovalCount := 1 }) (fun t => t.reg 0x49) = some 0x42 := by decide

/-- V3.43, V3.45. -/
theorem test_curlimTask :
    after (exec .curlimTask { s1 with curlim := ⟨.idle, true, 500, 0⟩ })
        (fun t => (t.lastCurlim, t.reg 0x49, t.reg 0x43, t.outputs, t.curlim.scheduled)) =
        some (500, 0x41, 0x0D, [.notify .chargerActive], false) ∧
      after (exec .curlimTask { susp .completedSuspend with curlim := ⟨.idle, true, 500, 0⟩ })
        (fun t => (t.lastCurlim, t.reg 0x49, t.curlim.scheduled)) = some (0, 0x42, false) := by decide

/-- V3.39 to V3.42. -/
theorem test_batfullDance :
    ([0x41, 0x43, 0xFE, 0x40].map fun v => after (exec .batfullDance (s1r 0x49 v)) fun t => t.reg 0x49) =
      [some 0x41, some 0x43, some 0xFE, some 0x40] := by decide

/-- V4.43 to V4.45. -/
theorem test_dispatch_entry_read :
    after (exec .dispatch { s1 with dispatchReq := true }) (fun t => (t.dispatchReq, t.disp, t.pass.map Pass.next)) =
        some (false, .running, some .read) ∧
      after (exec .dispatch { (inPass 0 .read).setReg 0x02 0x04 with draws := { Draws.zero with shortRead := some 3 } })
        (fun t => ((t.dispatchReq, t.disp, t.pass.isSome), t.reg 0x02, t.outputs)) = some ((true, .idle, false), 0x04, []) ∧
      after (exec .dispatch ((inPass 0 .read).setReg 0x02 0x04)) (fun t => (t.pass.map Pass.block, t.reg 0x02)) =
        some (some 0x0000000004, 0x00) := by decide

/-- V4.46 to V4.50; V4.73. -/
theorem test_dispatch_steps :
    ([0x0000000200, 0x0000800300, 0x0000000201, 0x0000000000, 0x0000000030].map fun b =>
        after (exec .dispatch { inPass b .step4 with suspend := .completedResume }) fun t =>
          (t.suspend, t.suppressOnkey)) =
        [true, true, false, false, false].map (fun b => some (SuspendState.running, b)) ∧
      after (exec .dispatch { (inPass 0 .step5).setReg 0x4B 0x0F with coldplugDone := false }) State.outputs =
        some [.notify .usbInsert, .notify .chargerInsert, .inputPower true, .platform .statusChanged] := by decide

/-- Section 2.5: the snapshot of a running poller stays. -/
theorem test_nobatStart :
    after (exec .nobatStart { s1 with nobat := ⟨true, 0⟩, usbRemovalCount := 3 }) State.nobat = some ⟨true, 0⟩ ∧
      after (exec .nobatStart { s1 with usbRemovalCount := 3 }) State.nobat = some ⟨true, 3⟩ := by decide

/-- V5.12 to V5.14, V5.16, V5.17. -/
theorem test_nobatPoll :
    after (exec .nobatPoll { s1r 0x4C 0xFE with nobat := ⟨true, 0⟩ }) State.nobat = some ⟨true, 0⟩ ∧
      after (exec .nobatPoll { s1r 0x4C 0x00 with nobat := ⟨true, 0⟩, usbRemovalCount := 1 })
        (fun t => (t.nobat.running, t.head)) = some (false, 1) ∧
      after (exec .nobatPoll { s1 with nobat := ⟨true, 0⟩, usbRemovalCount := 1, now := 7 })
        (fun t => (t.lastBatInsert, t.slot 1, t.nobat.running)) = some (some 7, some ⟨7, 3, .classify, 1⟩, false) ∧
      after (exec .nobatPoll { susp .completedResume with nobat := ⟨true, 0⟩ }) State.nobat = some ⟨true, 0⟩ := by decide

/-! ### Events: the rows of section 2.4, from `S1` -/

/-- V4.1. -/
theorem test_evChgIns :
    after (exec .evChgIns (at_ .chgIns)) (fun t => (t.flags.chgPresent, t.outputs, t.pass.map Pass.next)) =
      some (true, [.notify .chargerInsert, .inputPower true, .platform .statusChanged], some .exit) := by decide

/-- V4.2. -/
theorem test_evChgRem :
    after (exec .evChgRem { at_ .chgRem with flags := ⟨true, true, true, false, false, false⟩ })
        (fun t => (t.flags.chgPresent, t.outputs)) =
      some (false, [.notify .chargerRemove, .inputPower false, .platform .statusChanged]) := by decide

/-- V4.3, the two micro-steps. -/
theorem test_evUsbIns :
    after (exec .evUsbIns { at_ .usbIns with flags := ⟨false, false, true, false, false, false⟩ })
        (fun t => (t.flags.usbPresent, t.outputs, t.head, t.pass.map Pass.next)) =
        some (true, [.notify .usbInsert, .platform .statusChanged], 1, some .usbInsB) ∧
      after (exec .evUsbIns (inPass 0x4 .usbInsB)) (fun t => (t.slot 1, t.reg 0x54, t.pass.map Pass.next)) =
        some (some ⟨7, 3, .classify, 0⟩, 0x7D, some .exit) := by decide

/-- V4.4, V4.22. -/
theorem test_evUsbRem :
    after (exec .evUsbRem { at_ .usbRem with lastCurlim := 500 })
        (fun t => ((t.usbRemovalCount, t.flags.usbPresent, t.lastCurlim), t.slot 1, t.outputs)) =
        some ((1, false, 0), some ⟨7, 3, .classify, 1⟩, [.notify .usbRemove, .platform .statusChanged]) ∧
      after (exec .evUsbRem (inPass 0xC (.event .usbRem))) (fun t => (t.usbRemovalCount, t.flags.usbPresent, t.outputs)) =
        some (0, true, []) := by decide

/-- V4.5. -/
theorem test_evAlarm :
    after (exec .evAlarm (at_ .alarm)) State.outputs = some [.rtc .alarm] ∧
      after (exec .evAlarm { at_ .alarm with cfg := { Config.test with featRtc := false } }) State.outputs = some [] := by
  decide

/-- V4.6 and the table of the held counter. -/
theorem test_evTick :
    ([-1, 0, 3, 4].map fun n : Int =>
        after (exec .evTick { at_ .tick with onkeySeconds := n, onkeyPressed := true }) fun t =>
          (t.onkeySeconds, t.outputs)) =
        [some (-1, [.rtc .secondTick]), some (1, [.rtc .secondTick]), some (4, [.rtc .secondTick, .shutdownRequest]),
          some (5, [.rtc .secondTick])] ∧
      after (exec .evTick { at_ .tick with onkeySeconds := 2, onkeyPressed := false }) State.onkeySeconds = some 2 := by
  decide

/-- The last row of the held counter: the standby command. -/
theorem test_evTick_standby :
    after (exec .evTick { at_ .tick with onkeySeconds := 7, onkeyPressed := true }) (fun t =>
      (t.onkeySeconds, t.outputs, t.reg 0x0C, t.standbyIssued)) = some (8, [.rtc .secondTick], 0x01, true) := by decide

/-- V4.7; suppressed (42_interrupt_dispatcher.md R216). -/
theorem test_evOnkeyF :
    after (exec .evOnkeyF (at_ .onkeyF)) (fun t => (t.onkeyPressed, t.outputs)) = some (true, [.inputKey true]) ∧
      after (exec .evOnkeyF { at_ .onkeyF with suppressOnkey := true }) (fun t => (t.suppressOnkey, t.outputs)) =
        some (true, []) := by decide

/-- V4.8; suppressed, and with the RTC wanting the tick (42_interrupt_dispatcher.md R217). -/
theorem test_evOnkeyR :
    after (exec .evOnkeyR ({ at_ .onkeyR with onkeyPressed := true, onkeySeconds := 3 }.setReg 0x07 0x00))
        (fun t => (t.onkeyPressed, t.onkeySeconds, t.reg 0x07, t.outputs)) = some (false, -1, 0x80, [.inputKey false]) ∧
      after (exec .evOnkeyR ({ at_ .onkeyR with suppressOnkey := true, rtcWantsTick := true }.setReg 0x07 0x00))
        (fun t => (t.suppressOnkey, t.reg 0x07, t.outputs)) = some (false, 0x00, []) := by decide

/-- V4.9. -/
theorem test_evOnkey1s :
    after (exec .evOnkey1s (at_ .onkey1s)) (fun t => (t.onkeySeconds, t.reg 0x07, t.outputs)) = some (0, 0x00, []) := by
  decide

/-- V4.10 and the paragraph on EV_BATFULL: times 101, 102. -/
theorem test_evBatfull :
    after (exec .evBatfull (at_ .batfull)) State.outputs = some [.notify .chargerIdle] ∧
      after (exec .evBatfull { at_ .batfull with lastBatInsert := some 100, now := 101 })
        (fun t => (t.outputs, t.reg 0x49)) = some ([], 0x42) ∧
      after (exec .evBatfull { at_ .batfull with lastBatInsert := some 100, now := 102 }) State.outputs =
        some [.notify .chargerIdle] := by decide

/-- V4.11, V4.14, V4.15. -/
theorem test_evChargerChange :
    after (exec .evChghalt (at_ .chghalt)) State.outputs = some [.notify .chargerChange] ∧
      after (exec .evUsblimOn (at_ .usblimOn)) State.outputs = some [.notify .chargerChange] ∧
      after (exec .evUsblimOff (at_ .usblimOff)) State.outputs = some [.notify .chargerChange] := by decide

/-- V4.12, V4.13. -/
theorem test_evThlim :
    after (exec .evThlimOn (at_ .thlimOn)) (fun t => (t.flags.chgProt, t.outputs)) =
        some (true, [.notify .chargerChange]) ∧
      after (exec .evThlimOff { at_ .thlimOff with flags := ⟨false, true, true, true, false, false⟩ })
        (fun t => (t.flags.chgProt, t.outputs)) = some (false, [.notify .chargerChange]) := by decide

/-- V4.16; program P2 step 6: the next request is started. -/
theorem test_evAdcRdy :
    after (exec .evAdcRdy (at_ .adcRdy)) (fun t => (t.outputs, t.pass.map Pass.next)) =
        some ([.defect .adcReadyEmptyFifo], some .exit) ∧
      after (exec .evAdcRdy
          { at_ .adcRdy with
            slots := [none, some ⟨2, 1, .callback 1, 0xAA⟩, some ⟨0, 0, .sync 2, 0⟩, none, none, none, none, none]
            head := 3
            regs := [(0x55, 0xFF), (0x57, 0x03)] })
        (fun t => (t.outputs, t.tail, t.reg 0x54, t.adcHw)) =
        some ([.adcDone (.callback 1) 0xAA 1023], 2, 0x01, .converting 0 0) := by decide

/-- V4.17 and the paragraph under V4.21. -/
theorem test_evLowbat :
    after (exec .evLowbat (at_ .lowbat)) (fun t => (t.nobat, t.reg 0x43, t.outputs)) =
        some (⟨true, 0⟩, 0x0D, [.notify .chargerIdle]) ∧
      after (exec .evLowbat ((at_ .lowbat).setReg 0x4B 0x02)) (fun t => (t.nobat.running, t.outputs)) =
        some (false, [.platform .criticalSuspend]) := by decide

/-- V4.18; V4.27: after the low-battery event the low-system event of the same block is not visited. -/
theorem test_evLowsys :
    after (exec .evLowsys { (at_ .lowsys).setReg 0x4B 0x00 with draws := { Draws.zero with reachable := true } })
        State.outputs = some [.platform .lowBattery] ∧
      after (exec .evLowbat (inPass 0x0003000000 (.event .lowbat))) (fun t => t.pass.map Pass.next) = some (some .exit) := by
  decide

/-- V4.19, V4.20. -/
theorem test_evHightemp_evAutopwrfail :
    after (exec .evHightemp (at_ .hightemp)) State.outputs = some [.platform .criticalSuspend] ∧
      after (exec .evAutopwrfail (at_ .autopwrfail)) State.outputs = some [.warn .autoPowerFail] := by decide

/-- V4.21 and the paragraph under it. -/
theorem test_evWarnings :
    ([Instr.evSubregFail0, .evSubregFail1, .evSubregFail2, .evSubregFail3, .evSubregFail4, .evSubregFail5, .evSubregFail6,
        .evSubregFail7, .evSubregFail8, .evSubregFail9, .evLedFail, .evLedOvp].map fun i =>
        after (exec i (at_ .ledOvp)) State.outputs) =
      [WarnKind.subregFail 0, .subregFail 1, .subregFail 2, .subregFail 3, .subregFail 4, .subregFail 5, .subregFail 6,
        .subregFail 7, .subregFail 8, .subregFail 9, .ledFail, .ledOvp].map fun w => some [Output.warn w] := by decide

/-! ### The environment -/

/-- V4.60, V4.63, V4.64. -/
theorem test_pmuRaise :
    after (exec (.pmuRaise 0 7) s1) (fun t => (t.reg 0x02, t.irqLine)) = some (0x80, false) ∧
      after (exec (.pmuRaise 1 1) (s1r 0x08 0xFD)) (fun t => (t.reg 0x03, t.irqLine)) = some (0x02, true) := by decide

/-- V2.30 to V2.33. -/
theorem test_adcHwDone :
    ([(25, 0xF0), (1023, 0x00), (0, 0xFF), (10, 0xF0)].map fun p : BitVec 10 × Byte =>
        after (exec (.adcHwDone p.1) { busy .classify 0 with draws := { Draws.zero with junk := [p.2] } }) fun t =>
          (t.reg 0x55, t.reg 0x57, t.reg 0x04, t.adcHw)) =
      [(0x06, 0xF1), (0xFF, 0x03), (0x00, 0xFC), (0x02, 0xF2)].map
        fun p : Byte × Byte => some (p.1, p.2, 0x40, .idle) := by decide

/-- Program P1 step 3, V4.52, V4.62. -/
theorem test_irqEdge :
    after (exec .irqEdge (s1r 0x02 0x01)) (fun t => (t.irqSeen, t.dispatchReq, t.disp)) = some (true, true, .idle) ∧
      after (exec .irqEdge ((inPass 0x4 .step4).setReg 0x02 0x01)) (fun t => (t.irqSeen, t.dispatchReq, t.disp)) =
        some (true, false, .runningResched) ∧
      after (exec .irqEdge { s1r 0x02 0x01 with irqSeen := true }) State.dispatchReq = some false := by decide

/-- 42_interrupt_dispatcher.md R233. -/
theorem test_envSetStatus :
    after (exec (.envSetStatus .pwrstat 0x0C) s1) (fun t => (t.reg 0x4B, t.reg 0x4C)) = some (0x0C, 0x01) ∧
      after (exec (.envSetStatus .batstat 0x00) s1) (fun t => (t.reg 0x4B, t.reg 0x4C)) = some (0x03, 0x00) := by decide

/-- 42_interrupt_dispatcher.md R236. -/
theorem test_envRtcWant : after (exec (.envRtcWant true) s1) State.rtcWantsTick = some true := by decide

/-! ### Witnesses: states and operands that meet the hypotheses of each statement, clause by clause -/

/-- A step answers a next state. -/
def goesOn (r : Result) : Bool :=
  match r with
  | .next _ => true
  | .fault _ => false
  | .refused _ => false

/-- `S1` before PROBE. -/
def unprobed : State := { s1 with probed := false }

/-- `S1` with one turn scheduled. -/
def withTurn (s : State) (r : Request) : State := { s with port := [plainTurn r] }

/-- `S1` on a transport that fails. -/
def badBus : State := { s1 with draws := { Draws.zero with busError := true } }

/-- The device powered off. -/
def off : State := { s1 with standbyIssued := true }

theorem witness_DecodeEncodeRoundTrip :
    Config.test.wf = true ∧ (Instr.adcEnqueue 15 3 (.callback 255) (2 ^ 32 - 1)).WellFormed = true ∧
      (Instr.classify 1023 true).WellFormed = true ∧ (Instr.classifyDone 0 0).WellFormed = true ∧
      (Instr.waitUntilReady 0xFFFF 0xFF).WellFormed = true ∧ Instr.evLedOvp.WellFormed = true := by decide

theorem witness_IllegalCommandWords :
    let s := withTurn s1 (.command 0x0E000000 0 [])
    s.cfg.wf = true ∧ s.standbyIssued = false ∧ s.invoked = none ∧ s.port = [⟨.command 0x0E000000 0 [], Draws.zero⟩] ∧
      0x0D < (CommandWord.op 0x0E000000).toNat ∧ (0x07 : Byte).extractLsb' 0 4 = (0xF7 : Byte).extractLsb' 0 4 ∧
      (0x03 : Byte).extractLsb' 0 2 = (0xFF : Byte).extractLsb' 0 2 ∧ s1.Serving := by decide

theorem witness_StepRunsDecodedInstruction :
    s1.cfg.wf = true ∧ s1.standbyIssued = false ∧ s1.invoked = none ∧ s1.port = [] ∧
      (s1.withFetchWord 8 0x48).invoked = some ⟨0x48, []⟩ ∧ (decodeLabel 0x48 []).toOption = some .classifyTrigger ∧
      internalCode 0x48 = true ∧ internalCode 0xC2 = false ∧
      (withTurn s1 (.label 0x4D [])).port = [⟨.label 0x4D [], Draws.zero⟩] ∧
      (withTurn s1 .idle).port = [⟨.idle, Draws.zero⟩] ∧
      (decodeCommand 0x09000000 0 []).toOption = some .ready ∧
      (decodeLabel 0xC2 []).toOption = some .irqEdge ∧ Instr.irqEdge ≠ .dispatch ∧
      (withTurn s1 (.label 0x4C [])).eventAtHand = none ∧
      (withTurn (at_ .usbRem) (.label 0x4C [])).eventAtHand = some .usbRem ∧
      (withTurn (inPass 0x4 .usbInsB) (.label 0x4C [])).eventAtHand = some .usbIns ∧
      (withTurn s1 .coordinator).port = [⟨.coordinator, Draws.zero⟩] ∧
      (withTurn s1 (.wake 2)).port = [⟨.wake 2, Draws.zero⟩] := by decide

theorem witness_StepKeepsInv :
    s1.Inv ∧ goesOn (step (withTurn s1 (.command 0x0C000000 0 []))) = true ∧
      (withTurn (at_ .usbRem) (.label 0x4C [])).Inv ∧
      goesOn (step (withTurn (at_ .usbRem) (.label 0x4C []))) = true ∧
      { s1r 0x02 0x01 with irqSeen := true }.Inv ∧ fullQueue.Inv ∧ unprobed.Inv ∧
      (susp .completedSuspend).Inv := by
  refine ⟨?_, ?_, ?_, ?_, ?_, ?_, ?_, ?_⟩ <;> decide

theorem witness_Probe :
    unprobed.standbyIssued = false ∧ unprobed.probed = false ∧ s1.standbyIssued = false ∧ s1.probed = true := by decide

theorem witness_BeforeProbe :
    unprobed.standbyIssued = false ∧ unprobed.probed = false ∧ guardedCaller (.adcSyncRead 0 0 2) = some (some 2) ∧
      guardedCaller .suspend = some none ∧ 0x0D < (CommandWord.op 0x0E000000).toNat := by decide

theorem witness_GateErrors :
    s1.standbyIssued = false ∧ s1.probed = true ∧ (susp .startingSuspend).suspend = .startingSuspend ∧
      (susp .completedSuspend).suspend = .completedSuspend ∧ (susp .startingResume).suspend = .startingResume ∧
      gatedCaller (.batteryVoltage 5) = some (some 5) ∧ gatedCaller (.setBits 0 0) = some none ∧
      goesOn (exec .dispatch (susp .completedSuspend)) = true ∧
      goesOn (exec .curlimTask { susp .completedSuspend with curlim := ⟨.idle, true, 500, 0⟩ }) = true ∧
      goesOn (exec .nobatPoll { susp .completedSuspend with nobat := ⟨true, 0⟩ }) = true := by decide

theorem witness_BusyErrors :
    s1.standbyIssued = false ∧ s1.probed = true ∧ (susp .completedResume).suspend ≠ .running ∧
      (inPass 0 .read).disp ≠ .idle ∧ s1.suspend ≠ .completedSuspend := by decide

theorem witness_QueueFullErrors :
    fullQueue.Serving ∧ (fullQueue.head + 1) % fullQueue.cfg.depth = fullQueue.tail := by decide

theorem witness_RangeErrors :
    s1.Serving ∧ 255 < (0xFF : Byte).toNat + (2 : Byte).toNat - 1 ∧ [(0 : Byte)].length ≠ (5 : Byte).toNat := by decide

theorem witness_BusErrors :
    badBus.Sound ∧ badBus.Serving ∧ badBus.draws.busError = true ∧ (1 : Byte) ≠ 0 ∧
      (0xFF : Byte).toNat + (1 : Byte).toNat ≤ 256 ∧ [(0 : Byte)].length = (1 : Byte).toNat := by decide

/-- 93_implementation_defined.md U4: of a failed write of 0x53 and ADCCTL the stored byte has its effect, the other not. -/
theorem witness_BusErrors_stored :
    let s := { badBus with draws := { badBus.draws with stored := [false, true] } }
    let t := { badBus with draws := { badBus.draws with stored := [true, false] } }
    s.Sound ∧ s.Serving ∧
      after (exec (.writeRegisterBlock 0x53 2 [0x09, 0x21]) s) (fun u => (u.reg 0x53, u.reg 0x54, u.adcHw, u.returns)) =
        some (0x00, 0x21, .converting 2 0, [⟨none, .error .bus⟩]) ∧
      after (exec (.writeRegisterBlock 0x53 2 [0x09, 0x21]) t) (fun u => (u.reg 0x53, u.reg 0x54, u.adcHw)) =
        some (0x09, 0x7D, .idle) := by decide

theorem witness_SuspendOrder :
    (withTurn s1 (.command 0x0C000000 0 [])).Inv ∧
      after (step (withTurn s1 (.command 0x0C000000 0 []))) State.suspend = some .startingSuspend ∧
      s1.probed = true ∧ after (exec .suspend s1) State.suspend = some .startingSuspend ∧
      after (exec .resume (susp .completedSuspend)) State.suspend = some .startingResume ∧
      after (exec .dispatch { inPass 0 .step4 with suspend := .completedResume }) State.suspend = some .running ∧
      (coordinatorFinish (susp .startingSuspend)).suspend ≠ .startingSuspend ∧
      (coordinatorFinish (susp .startingResume)).suspend ≠ .startingResume ∧ s1.standbyIssued = false ∧
      (susp .completedResume).suspend ≠ .running ∧ s1.suspend ≠ .completedSuspend :=
  ⟨by decide, by decide⟩

theorem witness_GateClosedNoRegisterWrites :
    (susp .completedSuspend).accessAllowed = false ∧ pmuInput (.notifyUsbCurlim 500) = false ∧
      goesOn (exec (.notifyUsbCurlim 500) (susp .completedSuspend)) = true ∧ pmuInput .curlimTask = false ∧
      goesOn (exec .curlimTask { susp .startingResume with curlim := ⟨.idle, true, 500, 0⟩ }) = true := by decide

theorem witness_StandbyIsTerminal : off.standbyIssued = true ∧ off.cfg.wf = true := by decide

theorem witness_RemovalCounter :
    Instr.evUsbRem ≠ .probe ∧ goesOn (exec .evUsbRem (at_ .usbRem)) = true ∧
      countsRemoval (at_ .usbRem) .evUsbRem = true ∧ countsRemoval (at_ .usbRem) .dispatch = true ∧
      goesOn (exec .dispatch (at_ .usbRem)) = true ∧
      countsRemoval (inPass 0xC (.event .usbRem)) .evUsbRem = false := by decide

theorem witness_WhatNoStepUndoes :
    goesOn (step (withTurn (at_ .usbRem) (.label 0x4C []))) = true ∧ (at_ .usbRem).probed = true ∧
      (at_ .usbRem).coldplugDone = true := by decide

theorem witness_DisabledTransitionsStutter :
    s1.standbyIssued = false ∧ s1.disp = .idle ∧ s1.dispatchReq = false ∧ unprobed.probed = false ∧
      s1.curlim.scheduled = false ∧ { s1 with curlim := ⟨.running, true, 0, 0⟩ }.curlim.task ≠ .idle ∧
      s1.nobat.running = false ∧ s1.adcHw = .idle ∧ { s1 with irqDelivery := false }.irqDelivery = false ∧
      s1.irqLine = false ∧ { s1 with irqSeen := true }.irqSeen = true := by decide

theorem witness_FifoIsAQueue :
    s1.cfg.wf = true ∧ s1.FifoOk ∧ (busy .classify 0).FifoOk ∧ fullQueue.FifoOk ∧
      goesOn (exec (.adcEnqueue 0 0 .classify 0) s1) = true ∧
      goesOn (exec (.adcEnqueue 0 0 .classify 0) fullQueue) = true ∧
      goesOn (exec .adcComplete (busy .classify 0)) = true ∧
      (busy .classify 0).pending.head? = some ⟨2, 1, .classify, 0⟩ := by decide

theorem witness_QuantizeProperties : (499 : Nat) ≤ 500 ∧ Config.test.wf = true := by decide

/-- One slot left. -/
def oneSlotLeft : State := { fullQueue with slots := fullQueue.slots.set 0 none, head := 0 }

theorem witness_AdcEnqueue :
    s1.Sound ∧ s1.Live ∧ (s1.head + 1) % s1.cfg.depth ≠ s1.tail ∧ oneSlotLeft.Sound ∧ oneSlotLeft.Live ∧
      (oneSlotLeft.head + 1) % oneSlotLeft.cfg.depth ≠ oneSlotLeft.tail := by decide

theorem witness_AdcReadCommands :
    s1.Sound ∧ s1.Serving ∧ (s1.head + 1) % s1.cfg.depth ≠ s1.tail := by decide

theorem witness_ReaderWakesWithResult :
    (∀ x ∈ [(⟨2, .adcRead, none⟩ : Waiter), ⟨1, .adcRead, some 5⟩], x.caller = 2 → wakeValue s1 x = none) ∧
      { s1 with waiters := [⟨2, .adcRead, none⟩, ⟨2, .adcRead, some 1023⟩] }.waiters =
        [⟨2, .adcRead, none⟩] ++ ⟨2, .adcRead, some 1023⟩ :: [] ∧
      { s1 with waiters := [⟨2, .adcRead, none⟩, ⟨2, .battery, some 0⟩] }.waiters =
        [⟨2, .adcRead, none⟩] ++ ⟨2, .battery, some 0⟩ :: [] ∧
      { s1 with waiters := [⟨2, .adcRead, none⟩] }.waiters = [⟨2, .adcRead, none⟩] := by decide

theorem witness_AdcStart : s1.Sound ∧ s1.Live ∧ s1.cfg.adcctl = ⟨0, 1, 2, 4⟩ := by decide

/-- A reader's conversion is done and the reader waits behind another one. -/
def readerWaits : State :=
  { busy (.sync 2) 0 with waiters := [⟨1, .adcRead, none⟩, ⟨2, .battery, none⟩, ⟨3, .adcRead, none⟩] }

theorem witness_AdcComplete :
    (s1.Sound ∧ s1.FifoOk ∧ s1.Live ∧ s1.head = s1.tail) ∧
      ((busy .classify 0).Sound ∧ (busy .classify 0).FifoOk ∧ (busy .classify 0).Live ∧
        (busy .classify 0).head ≠ (busy .classify 0).tail ∧ (busy .classify 0).usbRemovalCount = 0) ∧
      ((busy .classify 1).usbRemovalCount ≠ 1 ∧ (busy (.callback 1) 0).FifoOk) ∧
      (readerWaits.Sound ∧ readerWaits.FifoOk ∧ readerWaits.Live ∧ readerWaits.head ≠ readerWaits.tail ∧
        readerWaits.waiters = [⟨1, .adcRead, none⟩] ++ ⟨2, .battery, none⟩ :: [⟨3, .adcRead, none⟩] ∧
        ∀ y ∈ [(⟨1, .adcRead, none⟩ : Waiter)], y.caller ≠ 2) := by decide

theorem witness_AdcReadyEvent : (at_ .adcRdy).FifoOk ∧ (at_ .adcRdy).Live := by decide

theorem witness_Classify :
    s1.standbyIssued = false ∧ (0 : Int) ≤ 1023 ∧ (-1 : Int) < 0 ∧ (1023 : Int) < 1024 := by decide

theorem witness_ApplyPolicy : s1.Sound ∧ s1.Live := by decide

theorem witness_SetCurrentLimit : (busy .classify 0).Sound ∧ (busy .classify 0).Live := by decide

theorem witness_ChargeEnable :
    s1.Sound ∧ s1.Live ∧ s1.cfg.featCharger = true ∧
      { s1 with cfg := { Config.test with featCharger := false } }.Sound ∧
      { s1 with cfg := { Config.test with featCharger := false } }.Live := by decide

theorem witness_HandshakeAndDance : (s1r 0x43 0xFF).Sound ∧ (s1r 0x43 0xFF).Live := by decide

theorem witness_ClassifyTriggerAndDone :
    s1.Sound ∧ s1.Live ∧ fullQueue.Sound ∧ fullQueue.Live ∧ s1.usbRemovalCount ≠ 1 ∧ s1.usbRemovalCount = 0 ∧
      (0 : Int) ≤ 1023 ∧ (1023 : Int) < 1024 ∧ (-1 : Int) < 0 := by decide

/-- A scheduled run of the notifier. -/
def limitAsked (n : Nat) : State := { s1 with curlim := ⟨.idle, true, 500, n⟩ }

theorem witness_UsbCurlimNotifier :
    (limitAsked 0).Sound ∧ (limitAsked 0).standbyIssued = false ∧ (limitAsked 0).probed = true ∧
      (limitAsked 0).curlim.scheduled = true ∧ (limitAsked 0).curlim.task = .idle ∧ (limitAsked 0).suspend = .running ∧
      (limitAsked 0).usbRemovalCount = (limitAsked 0).curlim.snapshot ∧
      (limitAsked 1).usbRemovalCount ≠ (limitAsked 1).curlim.snapshot ∧
      { limitAsked 0 with suspend := .completedResume }.suspend ≠ .running := by decide

theorem witness_DispatchEntry :
    s1.standbyIssued = false ∧ s1.probed = true ∧ s1.disp = .idle ∧
      (susp .startingSuspend).suspend = .startingSuspend ∧ (susp .startingResume).suspend = .startingResume ∧
      { susp .completedResume with dispatchReq := true }.dispatchReq = true ∧
      (susp .completedResume).suspend = .completedResume := by decide

theorem witness_DispatchRead :
    let s := inPass 0 .read
    s.Sound ∧ s.Live ∧ s.disp ≠ .idle ∧ s.pass = some ⟨0, .read, false⟩ ∧ s.draws.shortRead = none ∧
      { s with draws := { Draws.zero with shortRead := some 0 } }.draws.shortRead = some 0 ∧
      { s with draws := { Draws.zero with shortRead := some 4 } }.draws.shortRead = some 4 ∧
      s.cfg.shortReadClears = false ∧
      { s with cfg := { Config.test with shortReadClears := true } }.cfg.shortReadClears = true ∧
      { s with cfg := { Config.test with shortReadClears := true } }.Sound := by decide

theorem witness_DispatchStep4 :
    let s := { inPass 0x200 .step4 with suspend := .completedResume }
    s.Live ∧ s.disp ≠ .idle ∧ s.pass = some ⟨0x200, .step4, false⟩ ∧ s.suspend = .completedResume ∧
      (inPass 0 .step4).Live ∧ (inPass 0 .step4).suspend = .running := by decide

theorem witness_DispatchStep5 :
    let s := { inPass 0 .step5 with coldplugDone := false }
    s.Sound ∧ s.Live ∧ s.disp ≠ .idle ∧ s.pass = some ⟨0, .step5, false⟩ ∧ s.coldplugDone = false ∧
      (inPass 0 .step5).coldplugDone = true := by decide

theorem witness_DispatchEventsAndExit :
    (at_ .usbRem).Live ∧ (at_ .usbRem).disp ≠ .idle ∧
      (at_ .usbRem).pass = some ⟨Config.test.eventMask .usbRem, .event .usbRem, false⟩ ∧
      (inPass 4 .usbInsB).Live ∧ (inPass 4 .usbInsB).pass = some ⟨4, .usbInsB, false⟩ ∧ (inPass 0 .exit).Live ∧
      (inPass 0 .exit).pass = some ⟨0, .exit, false⟩ ∧
      { inPass 0 .exit with disp := .runningResched }.disp = .runningResched := by decide

theorem witness_ChargerEvents : (at_ .chgIns).Live ∧ (at_ .thlimOff).Live := by decide

theorem witness_UsbEvents :
    (at_ .usbIns).Sound ∧ (at_ .usbIns).Live ∧ (at_ .usbIns).atUsbInsB = false ∧
      (inPass 4 .usbInsB).Sound ∧ (inPass 4 .usbInsB).Live ∧ (inPass 4 .usbInsB).atUsbInsB = true ∧
      (inPass 0xC (.event .usbRem)).Sound ∧ (inPass 0xC (.event .usbRem)).Live ∧
      (inPass 0xC (.event .usbRem)).passHas .usbIns = true ∧ (at_ .usbRem).Sound ∧ (at_ .usbRem).Live ∧
      (at_ .usbRem).passHas .usbIns = false := by decide

/-- The key held, at the tick. -/
def held (n : Int) : State := { at_ .tick with onkeySeconds := n, onkeyPressed := true }

theorem witness_AlarmAndTick :
    (held (-1)).Sound ∧ (held (-1)).Live ∧ (held (-1)).onkeySeconds < 0 ∧ (at_ .tick).onkeyPressed = false ∧
      (held 0).Sound ∧ (held 0).Live ∧ 0 ≤ (held 0).onkeySeconds ∧ (held 0).onkeyPressed = true ∧
      (held 7).onkeySeconds + 1 = (held 7).cfg.onkeyShutdown ∧
      (held 6).onkeySeconds + 1 ≠ (held 6).cfg.onkeyShutdown ∧
      (held 3).onkeySeconds + 1 = (held 3).cfg.onkeySigInit := by decide

theorem witness_OnkeyEvents :
    (at_ .onkeyR).Sound ∧ (at_ .onkeyR).Live ∧ (at_ .onkeyR).rtcWantsTick = false ∧
      { at_ .onkeyR with rtcWantsTick := true }.rtcWantsTick = true := by decide

theorem witness_BatfullEvent :
    let s := { at_ .batfull with lastBatInsert := some 100 }
    s.Sound ∧ s.Live ∧ ({ s with now := 101 }.now : Int) - 100 < s.cfg.batfullGrace ∧
      (s.cfg.batfullGrace : Int) ≤ ({ s with now := 102 }.now : Int) - 100 ∧ (at_ .batfull).lastBatInsert = none := by
  decide

theorem witness_LowPowerEvents :
    (at_ .lowbat).Sound ∧ (at_ .lowbat).Live ∧ (at_ .lowbat).usbOk = true ∧
      ((at_ .lowsys).setReg 0x4B 0x0C).Sound ∧ ((at_ .lowsys).setReg 0x4B 0x0C).Live ∧
      ((at_ .lowsys).setReg 0x4B 0x0C).chgOk = true ∧ ((at_ .lowsys).setReg 0x4B 0x05).Sound ∧
      ((at_ .lowsys).setReg 0x4B 0x05).Live ∧ ((at_ .lowsys).setReg 0x4B 0x05).usbOk = false ∧
      ((at_ .lowsys).setReg 0x4B 0x05).chgOk = false := by decide

theorem witness_FaultBitEvents : (at_ .ledOvp).Live := by decide

theorem witness_ReadRegisterBlock :
    s1.Sound ∧ s1.Serving ∧ s1.draws.busError = false ∧ (1 : Byte) ≠ 0 ∧
      (0xFF : Byte).toNat + (1 : Byte).toNat ≤ 256 ∧ (0x01 : Byte).toNat + (0xFF : Byte).toNat ≤ 256 := by decide

theorem witness_WriteRegisterBlock :
    s1.Sound ∧ s1.Serving ∧ s1.draws.busError = false ∧ (2 : Byte) ≠ 0 ∧
      (0xFE : Byte).toNat + (2 : Byte).toNat ≤ 256 ∧ [(0x01 : Byte), 0x02].length = (2 : Byte).toNat ∧
      InBlock 0x0C 1 s1.cfg.aStandby.toNat ∧ InBlock 0x54 1 s1.cfg.aAdcctl.toNat := by decide

theorem witness_SetAndClearBits : s1.Sound ∧ s1.Serving ∧ s1.draws.busError = false := by decide

theorem witness_Ready : unprobed.standbyIssued = false := by decide

/-- A caller waits for readiness until time 60. -/
def awaiting (x : SuspendState) (now : Nat) : State :=
  { susp x with now := now, waiters := [⟨1, .adcRead, none⟩, ⟨4, .ready 60, none⟩] }

theorem witness_WaitUntilReady :
    s1.standbyIssued = false ∧ s1.isReady = true ∧ (susp .startingResume).isReady = false ∧
      (awaiting .completedResume 70).waiters = [⟨1, .adcRead, none⟩] ++ ⟨4, .ready 60, none⟩ :: [] ∧
      (∀ x ∈ [(⟨1, .adcRead, none⟩ : Waiter)], x.caller ≠ 4) ∧ (awaiting .completedResume 70).isReady = true ∧
      (awaiting .completedSuspend 60).isReady = false ∧ 60 ≤ (awaiting .completedSuspend 60).now ∧
      (awaiting .completedSuspend 59).now < 60 := by decide

theorem witness_GoStandby : s1.Sound ∧ s1.Serving := by decide

theorem witness_SuspendTransitions :
    s1.Sound ∧ s1.standbyIssued = false ∧ s1.probed = true ∧ s1.suspend = .running ∧ s1.disp = .idle ∧
      (susp .startingSuspend).Sound ∧ (susp .startingSuspend).suspend = .startingSuspend := by decide

theorem witness_ResumeTransitions :
    (susp .completedSuspend).Sound ∧ (susp .completedSuspend).standbyIssued = false ∧
      (susp .completedSuspend).probed = true ∧ (susp .completedSuspend).suspend = .completedSuspend ∧
      (susp .startingResume).Sound ∧ (susp .startingResume).suspend = .startingResume ∧
      (susp .startingResume).disp = .idle := by decide

theorem witness_NobatPoller :
    let s := { s1 with nobat := ⟨true, 0⟩ }
    s.Sound ∧ s.Live ∧ s.standbyIssued = false ∧ s.probed = true ∧ s.nobat.running = true ∧ s.suspend = .running ∧
      s.reg s.cfg.aBatstat.toNat &&& s.cfg.batPresentMask ≠ 0 ∧
      (s.setReg 0x4C 0xFE).reg s.cfg.aBatstat.toNat &&& s.cfg.batPresentMask = 0 ∧
      { s with suspend := .completedResume }.suspend ≠ .running := by decide

theorem witness_PmuInputs :
    (busy .classify 0).Sound ∧ (busy .classify 0).standbyIssued = false ∧
      (busy .classify 0).adcHw = .converting 2 1 ∧ (busy .classify 0).cfg.loMask = 3 := by decide

theorem witness_EdgeAndRtcInputs :
    (s1r 0x02 0x01).standbyIssued = false ∧ (s1r 0x02 0x01).irqDelivery = true ∧ (s1r 0x02 0x01).irqLine = true ∧
      (s1r 0x02 0x01).irqSeen = false ∧ (s1r 0x02 0x01).probed = true := by decide

end Sys2Proof.Tests
end

section
/-! SUPPORT. One step of the machine, said once: what it runs, and in which order it looks (00_scope.md R9, R10,
30_encoding.md R100, R101, R113, 42_interrupt_dispatcher.md R206; logs 6, 10). -/

namespace Sys2Proof.Machine

/-! ### What a step runs -/

section StepEquations

variable {s : State} (hc : s.cfg.wf = true) (hs : s.standbyIssued = false)
include hc hs

/-- A micro-operation that a rule invokes goes before every turn. -/
theorem step_of_invoked {call : Invocation} (hi : s.invoked = some call) :
    step s = perform { s with invoked := none } (fetchInvoked call) := by simp [step, hc, hs, hi]

theorem step_of_empty_port (hi : s.invoked = none) (hp : s.port = []) : step s = .next s := by
  simp [step, hc, hs, hi, hp]

theorem step_of_turn {t : Turn} {rest : List Turn} (hi : s.invoked = none) (hp : s.port = t :: rest) :
    step s = perform (s.take t rest) (fetch (s.take t rest) t.request) := by simp [step, hc, hs, hi, hp]

end StepEquations

/-- A step that answers is an invoked micro-operation, an idle block, or the turn at the head. -/
theorem step_next {s t : State} (h : step s = .next t) :
    s.cfg.wf = true ∧ s.standbyIssued = false ∧
      ((∃ call, s.invoked = some call ∧ perform { s with invoked := none } (fetchInvoked call) = .next t) ∨
        (s.invoked = none ∧ s.port = [] ∧ t = s) ∨
        ∃ turn rest, s.invoked = none ∧ s.port = turn :: rest ∧
          perform (s.take turn rest) (fetch (s.take turn rest) turn.request) = .next t) := by
  unfold step at h
  split at h
  · rename_i hc
    split at h
    · cases h
    · rename_i hs
      refine ⟨hc, by simpa using hs, ?_⟩
      split at h
      · rename_i call hi
        exact .inl ⟨call, hi, h⟩
      · rename_i hi hp
        exact .inr (.inl ⟨hi, hp, (Host.Outcome.next.inj h).symm⟩)
      · rename_i turn rest hi hp
        exact .inr (.inr ⟨turn, rest, hi, hp, h⟩)
  · cases h

theorem fetchInvoked_ok {code : Byte} {args : List Int} {i : Instr} (hc : internalCode code = true)
    (hd : decodeLabel code args = .ok i) : fetchInvoked ⟨code, args⟩ = .instr i := by simp [fetchInvoked, hc, hd]

theorem fetch_command_ok {s : State} {w : CommandWord} {p : BitVec 32} {d : List Byte} {i : Instr}
    (hd : decodeCommand w p d = .ok i) : fetch s (.command w p d) = .instr i := by simp [fetch, hd]

theorem fetch_internal_label {s : State} {code : Byte} {args : List Int} (hc : internalCode code = true) :
    fetch s (.label code args) = .undecodable (.notSelectable code) := by simp [fetch, fetchLabel, hc]

theorem fetch_label_ok {s : State} {code : Byte} {args : List Int} {i : Instr} (hc : internalCode code = false)
    (hd : decodeLabel code args = .ok i) (hi : i ≠ .dispatch) : fetch s (.label code args) = .instr i := by
  -- `hi` discharges the side condition of the second arm of `fetchLabel`'s match
  simp [fetch, fetchLabel, hc, hd]

/-- The Dispatcher's turn is the event at hand, or DISPATCH itself (42_interrupt_dispatcher.md R206). -/
theorem fetch_dispatcherTurn (s : State) :
    fetch s (.label 0x4C []) = .instr ((s.eventAtHand.map Event.instr).getD .dispatch) := by
  have hd : decodeLabel 0x4C [] = .ok .dispatch := rfl
  have hc : internalCode 0x4C = false := by decide
  simp only [fetch, fetchLabel, hc, hd, Bool.false_eq_true, if_false]
  cases s.eventAtHand <;> rfl

/-- The event at hand does not depend on the turn. -/
theorem eventAtHand_take (s : State) (t : Turn) (rest : List Turn) :
    (s.take t rest).eventAtHand = s.eventAtHand := rfl

/-- Settles O5: the step's equation for each way a turn or an invocation stands, then what is fetched there. -/
theorem stepRunsDecodedInstruction : Obligations.StepRunsDecodedInstruction := by
  refine ⟨fun s hc hs hi hp => step_of_empty_port hc hs hi hp, ?invocation, ?turn⟩
  case invocation =>
    intro s code args i hc hs hi hcode hd
    rw [step_of_invoked hc hs hi, fetchInvoked_ok hcode hd, perform]
  case turn =>
    intro s u t rest hc hs hi hp hu
    have hstep : step s = perform u (fetch u t.request) := hu ▸ step_of_turn hc hs hi hp
    have hev : u.eventAtHand = s.eventAtHand := hu ▸ eventAtHand_take s t rest
    refine ⟨?command, ?label, ?internal, ?dispatch, ?event, ?coordinator, ?wake, ?idle⟩
    case command =>
      intro w p d i hr hd
      rw [hstep, hr, fetch_command_ok hd, perform]
    case label =>
      intro code args i hr hcode hd hne
      rw [hstep, hr, fetch_label_ok hcode hd hne, perform]
    case internal =>
      intro code args hr hmem
      rw [hstep, hr, fetch_internal_label (List.elem_eq_true_of_mem hmem), perform]
    case dispatch =>
      intro hr hnone
      rw [hstep, hr, fetch_dispatcherTurn, hev, hnone]
      rfl
    case event =>
      intro e hr he
      rw [hstep, hr, fetch_dispatcherTurn, hev, he]
      rfl
    case coordinator =>
      intro hr
      rw [hstep, hr, fetch, perform]
    case wake =>
      intro w hr
      rw [hstep, hr, fetch, perform]
    case idle =>
      intro hr
      rw [hstep, hr, fetch, perform]

end Sys2Proof.Machine
end

section
/-! SUPPORT. What no operation takes back (00_scope.md R6, R8, R11, R12, 10_state.md R22, R25, R33): the relation, how
it passes through the frames and the shared operations, each rule's own case, then every operation and the step. -/

namespace Sys2Proof.Machine

/-! ### The relation -/

/-- What every operation leaves: the configuration (00_scope.md R6), the time of the turn, and what is invoked
(30_encoding.md R100); and what it only adds to: the trace (00_scope.md R8, R11) and the answers. -/
structure Grows (s t : State) : Prop where
  cfg : t.cfg = s.cfg
  now : t.now = s.now
  invoked : t.invoked = s.invoked
  outputs : s.outputs <+: t.outputs
  returns : s.returns <+: t.returns

/-- `Grows`, and what every operation but a first PROBE leaves: the two flags no rule writes (10_state.md R22), `probed`
(R33), and the cold-plug flag once set (R25). -/
structure Keeps (s t : State) : Prop extends Grows s t where
  chgReady : t.flags.chgReady = s.flags.chgReady
  chgError : t.flags.chgError = s.flags.chgError
  coldplugDone : s.coldplugDone = true → t.coldplugDone = true
  probed : t.probed = s.probed

/-- The fields `Keeps` speaks of. -/
def State.ledger (s : State) :
    (Config × Nat × Option Invocation × List Output × List Return) × Bool × Bool × Bool × Bool :=
  ((s.cfg, s.now, s.invoked, s.outputs, s.returns), s.flags.chgReady, s.flags.chgError, s.coldplugDone, s.probed)

section KeepsRules

variable {s t u : State}

/-- An update of other fields keeps everything. -/
theorem Keeps.of_ledger (h : t.ledger = s.ledger) : Keeps s t := by
  simp only [State.ledger, Prod.mk.injEq] at h
  obtain ⟨⟨hcfg, hnow, hinv, hout, hret⟩, hready, herror, hcold, hprobed⟩ := h
  exact ⟨⟨hcfg, hnow, hinv, hout ▸ List.prefix_rfl, hret ▸ List.prefix_rfl⟩, hready, herror, fun h => hcold.trans h,
    hprobed⟩

theorem Keeps.refl (s : State) : Keeps s s := .of_ledger rfl

theorem Keeps.trans (h : Keeps s t) (k : Keeps t u) : Keeps s u where
  cfg := k.cfg.trans h.cfg
  now := k.now.trans h.now
  invoked := k.invoked.trans h.invoked
  outputs := h.outputs.trans k.outputs
  returns := h.returns.trans k.returns
  chgReady := k.chgReady.trans h.chgReady
  chgError := k.chgError.trans h.chgError
  coldplugDone := fun hc => k.coldplugDone (h.coldplugDone hc)
  probed := k.probed.trans h.probed

/-- The form in which PROBE is covered too (`execProbe_grows`). -/
theorem Keeps.grows (h : Keeps s t) : Grows s t ∧ (s.probed = true → Keeps s t) := ⟨h.toGrows, fun _ => h⟩

/-- A further update of other fields. -/
theorem Keeps.update (h : Keeps s t) (hu : u.ledger = t.ledger) : Keeps s u := h.trans (.of_ledger hu)

/-- Whatever keeps everything, after an update of other fields. -/
theorem Keeps.after (k : Keeps t u) (h : t.ledger = s.ledger) : Keeps s u := .trans (.of_ledger h) k

theorem Keeps.setReg {a : Nat} {v : Byte} (h : Keeps s t) : Keeps s (t.setReg a v) := h.update rfl

theorem Keeps.writeGroup {a : Nat} {v : Bytes5} (h : Keeps s t) : Keeps s (t.writeGroup a v) :=
  h.setReg.setReg.setReg.setReg.setReg

theorem Keeps.settleLine (h : Keeps s t) : Keeps s t.settleLine := h.update rfl

theorem Keeps.maskTick (h : Keeps s t) : Keeps s t.maskTick := h.setReg.settleLine

theorem Keeps.setAdcHw {x : AdcHw} (h : Keeps s t) : Keeps s { t with adcHw := x } := h.update rfl

theorem Keeps.setDelivery {d : Bool} {x : SuspendState} (h : Keeps s t) :
    Keeps s { t with irqDelivery := d, suspend := x } := h.update rfl

theorem Keeps.setNext {m : Pass → MicroStep} (h : Keeps s t) : Keeps s (t.setNext m) := h.update rfl

theorem Keeps.emit {o : Output} (h : Keeps s t) : Keeps s (t.emit o) :=
  h.trans { Keeps.refl t with outputs := List.prefix_append _ _ }

theorem Keeps.ret {c : Option Byte} {v : ReturnValue} (h : Keeps s t) : Keeps s (t.ret c v) :=
  h.trans { Keeps.refl t with returns := List.prefix_append _ _ }

theorem raise_keeps (s : State) (c : Option Byte) (e : ErrorCode) : Keeps s (s.raise c e) := (Keeps.refl s).ret

theorem violation_keeps (s : State) (c : Option Byte) : Keeps s (s.violation c) := (Keeps.refl s).emit.ret

end KeepsRules

/-! ### The frames in which the meanings run -/

section Frames

variable {s t u : State} {c : Option Byte} {body : State → State}

theorem powered_keeps (h : powered s (.next u) = .next t) (k : Keeps s u) : Keeps s t :=
  Host.Outcome.next.inj (powered_next.mp h).2 ▸ k

theorem internalOp_keeps (h : internalOp s (.next u) = .next t) (k : Keeps s u) : Keeps s t :=
  Host.Outcome.next.inj (internalOp_next.mp h).2.2 ▸ k

theorem eventStep_keeps {e : Event} {rule : State → State} (h : eventStep e rule s = .next t) (k : Keeps s (rule s)) :
    Keeps s t := internalOp_keeps h k.setNext

theorem hostCommand_keeps (h : hostCommand s c body = .next t) (k : Keeps s (body s)) : Keeps s t := by
  obtain ⟨-, rfl⟩ := hostCommand_next.mp h
  split
  · exact k
  · exact raise_keeps _ _ _

theorem throughGate_keeps (k : Keeps s (body s)) : Keeps s (throughGate c body s) := by
  unfold throughGate
  split
  · exact k
  · exact violation_keeps _ _

theorem guarded_keeps {g : State → Bool} (k : Keeps s (body s)) : Keeps s (guarded g body s) := by
  unfold guarded
  split
  · exact k
  · exact .refl s

theorem inRange_keeps {reg count : Byte} (k : Keeps s (body s)) : Keeps s (inRange reg count body s) := by
  unfold inRange
  split
  · exact raise_keeps _ _ _
  · exact k

theorem onBus_keeps (k : Keeps s (body s)) : Keeps s (onBus body s) := by
  unfold onBus
  split
  · exact raise_keeps _ _ _
  · exact k

end Frames

/-! ### The register transport -/

section Transport

variable (s : State)

theorem settleAfter_keeps (a n : Nat) : Keeps s (s.settleAfter a n) := by
  rw [State.settleAfter_eq]
  exact .of_ledger rfl

theorem clearCovered_keeps (a n : Nat) : Keeps s (s.clearCovered a n) := by
  rw [State.clearCovered_eq]
  exact .of_ledger rfl

theorem hostStore_keeps (a : Nat) (v junk : Byte) : Keeps s (s.hostStore a v junk) := by
  unfold State.hostStore State.adcctlWritten
  split
  · exact .of_ledger rfl
  · split
    · split <;> exact .of_ledger rfl
    · split <;> exact .of_ledger rfl

theorem hostStoreBlock_keeps (a : Nat) (data junk : List Byte) (stored : List Bool) :
    Keeps s (s.hostStoreBlock a data junk stored) := by
  induction data generalizing s a junk stored with
  | nil => exact .refl s
  | cons v data ih =>
    unfold State.hostStoreBlock
    split
    · exact (hostStore_keeps s a v _).trans (ih _ _ _ _)
    · exact ih _ _ _ _

theorem hostModify_keeps (reg v : Byte) : Keeps s (hostModify reg v s) :=
  ((hostStore_keeps s _ _ _).trans (settleAfter_keeps _ _ _)).ret

theorem hostWrite_keeps (reg : Byte) (data : List Byte) : Keeps s (hostWrite reg data s) := by
  have hstored : ∀ stored,
      Keeps s ((s.hostStoreBlock reg.toNat data s.draws.junk stored).settleAfter reg.toNat data.length) := fun stored =>
    (hostStoreBlock_keeps s _ _ _ stored).trans (settleAfter_keeps _ _ _)
  unfold hostWrite
  dsimp only
  split
  · exact (hstored _).ret
  · exact (hstored _).ret

end Transport

/-! ### The charger machine -/

section Charger

variable (s : State)

theorem chargeEnable_keeps (on : Bool) : Keeps s (chargeEnable on s) := by
  rw [chargeEnable_eq]
  exact { Keeps.refl s with outputs := List.prefix_append _ _, chgReady := rfl, chgError := rfl }

theorem autoresumeHandshake_keeps : Keeps s (autoresumeHandshake s) :=
  (Keeps.refl s).setReg.setReg.setReg

theorem setCurrentLimit_keeps (ma : Nat) : Keeps s (setCurrentLimit ma s) :=
  ((Keeps.refl s).setReg.trans (chargeEnable_keeps _ _)).trans (autoresumeHandshake_keeps _)

theorem applyPolicy_keeps (type : ChargerType) : Keeps s (applyPolicy type s) := by
  refine Keeps.setReg ?_
  cases type with
  | none => exact setCurrentLimit_keeps s _
  | hostLimited => exact setCurrentLimit_keeps s _
  | oneAmp => exact (Keeps.refl s).setReg.trans (setCurrentLimit_keeps _ _)

theorem classifyDone_keeps (snapshot result : Nat) : Keeps s (classifyDone snapshot result s) := by
  unfold classifyDone
  split
  · exact applyPolicy_keeps s _
  · exact .refl s

theorem batfullDance_keeps : Keeps s (batfullDance s) := (Keeps.refl s).setReg.setReg

theorem curlimRun_keeps : Keeps s (curlimRun s) := by
  unfold curlimRun
  dsimp only
  split
  · exact .of_ledger rfl
  · split
    · exact .of_ledger rfl
    · exact (setCurrentLimit_keeps _ _).after rfl

end Charger

/-! ### The ADC scheduler -/

section Scheduler

variable (s : State)

theorem enqueueAccepted_keeps (r : AdcRequest) : Keeps s (enqueueAccepted r s) := by
  unfold enqueueAccepted
  split <;> exact .of_ledger rfl

theorem adcEnqueue_keeps {ok full : State → State} (r : AdcRequest) (hok : ∀ u, Keeps u (ok u))
    (hfull : ∀ u, Keeps u (full u)) : Keeps s (adcEnqueue r ok full s) := by
  unfold adcEnqueue
  split
  · exact (Keeps.refl s).emit.trans (hfull _)
  · exact (enqueueAccepted_keeps s r).trans (hok _)

theorem block_keeps (w : Byte) (f : WaitFor) : Keeps s (block w f s) := .of_ledger rfl

theorem classifyTrigger_keeps : Keeps s (classifyTrigger s) :=
  adcEnqueue_keeps s _ .refl fun u => (Keeps.refl u).emit

theorem deliver_keeps (r : AdcRequest) (v : BitVec 10) : Keeps s (deliver r v s) := by
  have hemit : Keeps s (s.emit (.adcDone r.target r.param v.toNat)) := (Keeps.refl s).emit
  unfold deliver
  dsimp only
  split
  · exact hemit.update rfl
  · exact hemit
  · exact hemit.trans (classifyDone_keeps _ _ _)

theorem popSlot_keeps : Keeps s (popSlot s) := .of_ledger rfl

theorem startNext_keeps {s t : State} (h : startNext s = some t) : Keeps s t := by
  unfold startNext at h
  split at h
  · cases h
    exact .refl s
  · obtain ⟨r, -, rfl⟩ := Option.map_eq_some_iff.mp h
    exact .of_ledger rfl

theorem adcComplete_keeps {s t : State} (h : adcComplete s = some t) : Keeps s t := by
  unfold adcComplete at h
  split at h
  · cases h
    exact (Keeps.refl s).emit
  · obtain ⟨r, -, hnext⟩ := Option.bind_eq_some_iff.mp h
    exact ((popSlot_keeps s).trans (deliver_keeps _ _ _)).trans (startNext_keeps hnext)

theorem completed_next {x : Option State} {t : State} : completed x = .next t ↔ x = some t := by
  cases x <;> simp [completed]

end Scheduler

/-! ### The poller and the coordinator -/

section Coordinator

variable (s : State)

theorem nobatStart_keeps : Keeps s (nobatStart s) := by
  unfold nobatStart
  split <;> exact .of_ledger rfl

theorem nobatCycle_keeps : Keeps s (nobatCycle s) := by
  unfold nobatCycle
  split
  · exact .refl s
  · split
    · have htrigger : Keeps s (classifyTrigger { s with lastBatInsert := some s.now }) :=
        (classifyTrigger_keeps _).after rfl
      exact htrigger.update rfl
    · split <;> exact .of_ledger rfl

theorem requestDispatch_keeps : Keeps s s.requestDispatch := by
  unfold State.requestDispatch
  split <;> exact .of_ledger rfl

theorem standby_keeps : Keeps s (standby s) := .of_ledger rfl

theorem suspendFinish_keeps : Keeps s (suspendFinish s) := by
  have hsaved : Keeps s { s with savedMask := s.readGroup (s.intmAt 0) } := .of_ledger rfl
  exact hsaved.writeGroup.settleLine.setDelivery.ret

theorem resumeFinish_keeps : Keeps s (resumeFinish s) :=
  ((Keeps.refl s).writeGroup.settleLine.maskTick.setDelivery.trans (requestDispatch_keeps _)).ret

theorem coordinatorFinish_keeps : Keeps s (coordinatorFinish s) := by
  unfold coordinatorFinish
  cases s.suspend with
  | startingSuspend => exact suspendFinish_keeps s
  | startingResume => exact resumeFinish_keeps s
  | running => exact .refl s
  | completedSuspend => exact .refl s
  | completedResume => exact .refl s

theorem wakeCaller_keeps (w : Byte) : Keeps s (wakeCaller w s) := by
  unfold wakeCaller
  split
  · exact .ret (.of_ledger rfl)
  · exact .refl s

end Coordinator

/-! ### The events -/

section Events

variable (s : State)

theorem ruleUsbRem_keeps : Keeps s (ruleUsbRem s) := by
  unfold ruleUsbRem
  split
  · exact .refl s
  · refine .trans ?_ (classifyTrigger_keeps _)
    exact .emit (.emit (.of_ledger rfl))

theorem forwardRtc_keeps (k : RtcKind) : Keeps s (forwardRtc k s) := by
  unfold forwardRtc
  split
  · exact (Keeps.refl s).emit
  · exact .refl s

theorem countHeld_keeps : Keeps s (countHeld s) := by
  have hcount : Keeps s { s with onkeySeconds := s.onkeySeconds + 1 } := .of_ledger rfl
  unfold countHeld
  dsimp only
  split
  · split
    · split
      · exact hcount.emit.trans (standby_keeps _)
      · exact hcount.emit
    · split
      · exact hcount.trans (standby_keeps _)
      · exact hcount
  · exact .refl s

theorem ruleOnkeyF_keeps : Keeps s (ruleOnkeyF s) := by
  unfold ruleOnkeyF
  dsimp only
  split
  · exact .of_ledger rfl
  · exact .emit (.of_ledger rfl)

theorem ruleOnkeyR_keeps : Keeps s (ruleOnkeyR s) := by
  have hreport : Keeps s
      (if s.suppressOnkey then { s with onkeyPressed := false, onkeySeconds := -1, suppressOnkey := false }
       else State.emit { s with onkeyPressed := false, onkeySeconds := -1 } (.inputKey false)) := by
    split
    · exact .of_ledger rfl
    · exact .emit (.of_ledger rfl)
  unfold ruleOnkeyR
  dsimp only
  split
  · exact hreport
  · exact hreport.maskTick

theorem ruleBatfull_keeps : Keeps s (ruleBatfull s) := by
  unfold ruleBatfull
  split
  · exact batfullDance_keeps s
  · exact (Keeps.refl s).emit

theorem ruleLowpwr_keeps : Keeps s (ruleLowpwr s) := by
  unfold ruleLowpwr
  split
  · exact ((Keeps.refl s).emit.trans (autoresumeHandshake_keeps _)).trans (nobatStart_keeps _)
  · exact (Keeps.refl s).emit

theorem usbIns_keeps : Keeps s (if s.atUsbInsB then usbInsB s else usbInsA s) := by
  split
  · exact (classifyTrigger_keeps s).setNext
  · exact .setNext (.emit (.emit (.of_ledger rfl)))

/-- One rule serves the ten sub-regulator failures (42_interrupt_dispatcher.md R229). -/
theorem execEvent_subregFail (k : Fin 10) : execEvent (.subregFail k) s = subregStep k s := by
  fin_cases k <;> rfl

theorem subregStep_keeps {s t : State} {k : Fin 10} (h : subregStep k s = .next t) : Keeps s t :=
  eventStep_keeps h (Keeps.refl s).emit

theorem execEvent_keeps {s t : State} {e : Event} (h : execEvent e s = .next t) : Keeps s t := by
  unfold execEvent at h
  cases e with
  | chgIns => exact eventStep_keeps h (.emit (.emit (.emit (.of_ledger rfl))))
  | chgRem => exact eventStep_keeps h (.emit (.emit (.emit (.of_ledger rfl))))
  | usbIns => exact internalOp_keeps h (usbIns_keeps s)
  | usbRem => exact eventStep_keeps h (ruleUsbRem_keeps s)
  | alarm => exact eventStep_keeps h (forwardRtc_keeps s _)
  | tick => exact eventStep_keeps h ((forwardRtc_keeps s _).trans (countHeld_keeps _))
  | onkeyF => exact eventStep_keeps h (ruleOnkeyF_keeps s)
  | onkeyR => exact eventStep_keeps h (ruleOnkeyR_keeps s)
  | onkey1s => exact eventStep_keeps h (.of_ledger rfl)
  | batfull => exact eventStep_keeps h (ruleBatfull_keeps s)
  | chghalt | usblimOn | usblimOff => exact eventStep_keeps h (Keeps.refl s).emit
  | thlimOn | thlimOff => exact eventStep_keeps h (.emit (.of_ledger rfl))
  | adcRdy =>
    obtain ⟨u, hu, rfl⟩ := Option.map_eq_some_iff.mp (completed_next.mp (internalOp_next.mp h).2.2)
    exact (adcComplete_keeps hu).setNext
  | lowbat | lowsys => exact eventStep_keeps h (ruleLowpwr_keeps s)
  | hightemp | autopwrfail | ledFail | ledOvp => exact eventStep_keeps h (Keeps.refl s).emit
  | subregFail k => exact subregStep_keeps ((execEvent_subregFail s k).symm.trans h)

end Events

/-! ### The Dispatcher -/

section Dispatcher

variable (s : State)

theorem passEntry_keeps : Keeps s (passEntry s) := by
  unfold passEntry
  split
  · split <;> exact .of_ledger rfl
  · exact .refl s

theorem shortRead_keeps (k : Nat) : Keeps s (shortRead k s) := by
  unfold shortRead
  dsimp only
  split
  · exact (clearCovered_keeps s _ _).update rfl
  · exact .of_ledger rfl

theorem fullRead_keeps : Keeps s (fullRead s) := by
  rw [fullRead_eq]
  exact .of_ledger rfl

theorem passRead_keeps : Keeps s (passRead s) := by
  unfold passRead
  split
  · exact shortRead_keeps s _
  · exact fullRead_keeps s

theorem passStep4_keeps (block : Block) : Keeps s (passStep4 block s) := by
  unfold passStep4
  dsimp only
  split
  · exact .of_ledger rfl
  · exact .of_ledger rfl

theorem coldplugReports_keeps (usb chg : Bool) :
    Keeps s (coldplugStatus (usb || chg) (coldplugChg chg (coldplugUsb usb s))) := by
  rw [coldplugReports_eq]
  exact { Keeps.refl s with
    outputs := ((List.prefix_append _ _).trans (List.prefix_append _ _)).trans (List.prefix_append _ _)
    chgReady := rfl
    chgError := rfl }

theorem coldplug_keeps : Keeps s (coldplug s) := by
  have hreports := (Keeps.refl s).maskTick.trans (coldplugReports_keeps s.maskTick s.maskTick.usbOk s.maskTick.chgOk)
  exact { hreports.trans (classifyTrigger_keeps _) with coldplugDone := fun _ => rfl }

theorem passStep5_keeps : Keeps s (passStep5 s) := by
  unfold passStep5
  dsimp only
  split
  · exact (Keeps.refl s).setNext
  · exact (coldplug_keeps s).setNext

theorem passExit_keeps : Keeps s (passExit s) := (Keeps.refl s).emit.update rfl

theorem passStep_keeps {s t : State} {p : Pass} (h : passStep p s = .next t) : Keeps s t := by
  unfold passStep at h
  split at h
  · exact Host.Outcome.next.inj h ▸ passRead_keeps s
  · exact Host.Outcome.next.inj h ▸ passStep4_keeps s _
  · exact Host.Outcome.next.inj h ▸ passStep5_keeps s
  · exact execEvent_keeps h
  · exact execEvent_keeps (e := .usbIns) h
  · exact Host.Outcome.next.inj h ▸ passExit_keeps s

theorem execDispatch_keeps {s t : State} (h : execDispatch s = .next t) : Keeps s t := by
  have hb := (powered_next.mp h).2
  split at hb
  · exact Host.Outcome.next.inj hb ▸ passEntry_keeps s
  · split at hb
    · exact passStep_keeps hb
    · cases hb
  · cases hb

end Dispatcher

/-- The PMU's end of a conversion writes registers and the converter (40_adc_scheduler.md R146). -/
theorem conversionDone_keeps (s : State) (value : BitVec 10) : Keeps s (conversionDone value s) :=
  (Keeps.refl s).setReg.setReg.setReg.setAdcHw

/-! ### Every operation and every step -/

/-- Every operation but PROBE. -/
theorem exec_keeps {i : Instr} {s t : State} (hi : i ≠ .probe) (h : exec i s = .next t) : Keeps s t := by
  unfold exec at h
  cases i with
  | probe => exact absurd rfl hi
  | adcAsyncRead chan avg f param =>
    exact hostCommand_keeps h (throughGate_keeps
      (adcEnqueue_keeps s _ (fun u => (Keeps.refl u).ret) fun u => raise_keeps u _ _))
  | adcSyncRead chan avg w =>
    exact hostCommand_keeps h (throughGate_keeps
      (adcEnqueue_keeps s _ (fun u => block_keeps u _ _) fun u => raise_keeps u _ _))
  | batteryVoltage w =>
    exact hostCommand_keeps h (throughGate_keeps
      (adcEnqueue_keeps s _ (fun u => block_keeps u _ _) fun u => raise_keeps u _ _))
  | notifyUsbCurlim ma => exact hostCommand_keeps h (.ret (.of_ledger rfl))
  | readRegisterBlock reg count =>
    exact hostCommand_keeps h (throughGate_keeps (inRange_keeps (onBus_keeps (clearCovered_keeps s _ _).ret)))
  | writeRegisterBlock reg count data =>
    refine hostCommand_keeps h (throughGate_keeps (inRange_keeps ?_))
    split
    · exact raise_keeps s _ _
    · exact hostWrite_keeps s _ _
  | setBits reg mask => exact hostCommand_keeps h (throughGate_keeps (onBus_keeps (hostModify_keeps s _ _)))
  | clearBits reg mask => exact hostCommand_keeps h (throughGate_keeps (onBus_keeps (hostModify_keeps s _ _)))
  | ready => exact powered_keeps h (Keeps.refl s).ret
  | waitUntilReady timeout w =>
    refine powered_keeps h ?_
    split
    · exact (Keeps.refl s).ret
    · exact .of_ledger rfl
  | goStandby => exact hostCommand_keeps h (throughGate_keeps (standby_keeps s).ret)
  | suspend =>
    refine hostCommand_keeps h ?_
    split
    · exact raise_keeps s _ _
    · exact .of_ledger rfl
  | resume =>
    refine hostCommand_keeps h ?_
    split
    · exact raise_keeps s _ _
    · exact .of_ledger rfl
  | adcEnqueue chan avg target param =>
    exact internalOp_keeps h (adcEnqueue_keeps s _ (fun u => (Keeps.refl u).ret) fun u => raise_keeps u _ _)
  | adcStart r => exact internalOp_keeps h (.of_ledger rfl)
  | adcComplete => exact adcComplete_keeps (completed_next.mp (internalOp_next.mp h).2.2)
  | classify sample usbPresent =>
    have hb := (powered_next.mp h).2
    split at hb
    · exact Host.Outcome.next.inj hb ▸ (Keeps.refl s).ret
    · cases hb
  | applyPolicy type => exact internalOp_keeps h (applyPolicy_keeps s _)
  | setCurrentLimit ma => exact internalOp_keeps h (setCurrentLimit_keeps s _)
  | chargeEnable on => exact internalOp_keeps h (chargeEnable_keeps s _)
  | autoresumeHandshake => exact internalOp_keeps h (autoresumeHandshake_keeps s)
  | classifyTrigger => exact internalOp_keeps h (classifyTrigger_keeps s)
  | classifyDone snapshot result =>
    have hb := (internalOp_next.mp h).2.2
    split at hb
    · cases hb
    · exact Host.Outcome.next.inj hb ▸ classifyDone_keeps s _ _
  | curlimTask => exact powered_keeps h (guarded_keeps (curlimRun_keeps s))
  | batfullDance => exact internalOp_keeps h (batfullDance_keeps s)
  | dispatch => exact execDispatch_keeps h
  | nobatStart => exact internalOp_keeps h (nobatStart_keeps s)
  | nobatPoll => exact powered_keeps h (guarded_keeps (nobatCycle_keeps s))
  | evChgIns => exact execEvent_keeps (e := .chgIns) h
  | evChgRem => exact execEvent_keeps (e := .chgRem) h
  | evUsbIns => exact execEvent_keeps (e := .usbIns) h
  | evUsbRem => exact execEvent_keeps (e := .usbRem) h
  | evAlarm => exact execEvent_keeps (e := .alarm) h
  | evTick => exact execEvent_keeps (e := .tick) h
  | evOnkeyF => exact execEvent_keeps (e := .onkeyF) h
  | evOnkeyR => exact execEvent_keeps (e := .onkeyR) h
  | evOnkey1s => exact execEvent_keeps (e := .onkey1s) h
  | evBatfull => exact execEvent_keeps (e := .batfull) h
  | evChghalt => exact execEvent_keeps (e := .chghalt) h
  | evThlimOn => exact execEvent_keeps (e := .thlimOn) h
  | evThlimOff => exact execEvent_keeps (e := .thlimOff) h
  | evUsblimOn => exact execEvent_keeps (e := .usblimOn) h
  | evUsblimOff => exact execEvent_keeps (e := .usblimOff) h
  | evAdcRdy => exact execEvent_keeps (e := .adcRdy) h
  | evLowbat => exact execEvent_keeps (e := .lowbat) h
  | evLowsys => exact execEvent_keeps (e := .lowsys) h
  | evHightemp => exact execEvent_keeps (e := .hightemp) h
  | evAutopwrfail => exact execEvent_keeps (e := .autopwrfail) h
  | evSubregFail0 | evSubregFail1 | evSubregFail2 | evSubregFail3 | evSubregFail4 => exact subregStep_keeps h
  | evSubregFail5 | evSubregFail6 | evSubregFail7 | evSubregFail8 | evSubregFail9 => exact subregStep_keeps h
  | evLedFail => exact execEvent_keeps (e := .ledFail) h
  | evLedOvp => exact execEvent_keeps (e := .ledOvp) h
  | pmuRaise i b => exact powered_keeps h (.of_ledger rfl)
  | adcHwDone value => exact powered_keeps h (guarded_keeps (conversionDone_keeps s _))
  | irqEdge => exact powered_keeps h (guarded_keeps ((requestDispatch_keeps _).after rfl))
  | envSetStatus reg v => exact powered_keeps h (.of_ledger rfl)
  | envRtcWant b => exact powered_keeps h (.of_ledger rfl)

/-- PROBE sets the device's own state back, and only before a first PROBE (43_suspend_and_tasks.md R274). -/
theorem execProbe_grows {s t : State} (h : execProbe s = .next t) : Grows s t ∧ (s.probed = true → Keeps s t) := by
  obtain rfl := Host.Outcome.next.inj (powered_next.mp h).2
  split
  · exact (raise_keeps s none .busy).grows
  · rename_i hp
    exact ⟨⟨rfl, rfl, rfl, List.prefix_rfl, List.prefix_append _ _⟩, fun hpr => absurd hpr hp⟩

theorem exec_grows {i : Instr} {s t : State} (h : exec i s = .next t) :
    Grows s t ∧ (s.probed = true → Keeps s t) := by
  by_cases hi : i = .probe
  · subst hi
    exact execProbe_grows h
  · exact (exec_keeps hi h).grows

theorem perform_grows {f : Fetched} {s t : State} (h : perform s f = .next t) :
    Grows s t ∧ (s.probed = true → Keeps s t) := by
  cases f with
  | instr i => exact exec_grows h
  | illegalCommand => exact Host.Outcome.next.inj h ▸ (raise_keeps s _ _).grows
  | undecodable why => cases h
  | coordinator => exact Host.Outcome.next.inj h ▸ (coordinatorFinish_keeps s).grows
  | wake w => exact Host.Outcome.next.inj h ▸ (wakeCaller_keeps s w).grows
  | idle => exact Host.Outcome.next.inj h ▸ (Keeps.refl s).grows

/-- Whatever a step runs, it runs on the state with time gone by and nothing left to invoke. -/
theorem step_performs {s t : State} (h : step s = .next t) :
    ∃ f port draws now, s.now ≤ now ∧
      perform { s with port := port, draws := draws, now := now, invoked := none } f = .next t := by
  obtain ⟨-, -, ⟨call, -, hcall⟩ | ⟨hi, -, rfl⟩ | ⟨turn, rest, hi, -, hturn⟩⟩ := step_next h
  · exact ⟨_, s.port, s.draws, s.now, le_rfl, hcall⟩
  · refine ⟨.idle, t.port, t.draws, t.now, le_rfl, ?_⟩
    rw [← hi, perform]
  · refine ⟨fetch (s.take turn rest) turn.request, rest, turn.draws, s.now + turn.draws.elapsed,
      Nat.le_add_right _ _, ?_⟩
    rw [← hi]
    exact hturn

/-- Settles O20: what the step runs grows the trace and keeps the rest (`perform_grows`), and the turn only lets time
pass. -/
theorem whatNoStepUndoes : Obligations.WhatNoStepUndoes := by
  intro s t h
  obtain ⟨f, port, draws, now, hnow, hperform⟩ := step_performs h
  obtain ⟨hgrows, hkeeps⟩ := perform_grows hperform
  refine ⟨hgrows.cfg, hnow.trans hgrows.now.ge, hgrows.outputs, hgrows.returns, hgrows.invoked, fun hprobed => ?_⟩
  have hk := hkeeps hprobed
  exact ⟨hk.chgReady, hk.chgError, hk.coldplugDone, hk.probed.trans hprobed⟩

end Sys2Proof.Machine
end

section
/-! SUPPORT. The ring buffer as a queue (10_state.md R41, R42, 40_adc_scheduler.md R140, R142): what `FifoOk` and the
pending requests are after a request was stored or the oldest one was taken. -/

namespace Sys2Proof.Machine

/-! ### The ring -/

/-- The part of the state that the FIFO is made of (10_state.md R41, R42). -/
def State.ring (s : State) : Nat × List (Option AdcRequest) × Nat × Nat := (s.cfg.depth, s.slots, s.head, s.tail)

theorem State.ring_eq_iff {s t : State} :
    t.ring = s.ring ↔ t.cfg.depth = s.cfg.depth ∧ t.slots = s.slots ∧ t.head = s.head ∧ t.tail = s.tail := by
  simp only [State.ring, Prod.mk.injEq]

section SameRing

variable {s t : State} (h : t.ring = s.ring)
include h

theorem State.slot_congr (k : Nat) : t.slot k = s.slot k := by
  obtain ⟨-, hslots, -, -⟩ := State.ring_eq_iff.mp h
  rw [State.slot, State.slot, hslots]

theorem State.pendingCount_congr : t.pendingCount = s.pendingCount := by
  obtain ⟨hdepth, -, hhead, htail⟩ := State.ring_eq_iff.mp h
  rw [State.pendingCount, State.pendingCount, hdepth, hhead, htail]

theorem State.pending_congr : t.pending = s.pending := by
  obtain ⟨hdepth, -, -, htail⟩ := State.ring_eq_iff.mp h
  simp only [State.pending, State.pendingCount_congr h, State.slot_congr h, hdepth, htail]

theorem State.fifoOk_congr (hs : s.FifoOk) : t.FifoOk := by
  obtain ⟨hdepth, hslots, hhead, htail⟩ := State.ring_eq_iff.mp h
  simpa only [State.FifoOk, State.offset, State.pendingCount_congr h, State.slot_congr h, hdepth, hslots, hhead, htail]
    using hs

theorem pushSlot_ring_congr (r : AdcRequest) : (pushSlot r t).ring = (pushSlot r s).ring := by
  obtain ⟨hdepth, hslots, hhead, htail⟩ := State.ring_eq_iff.mp h
  simp only [pushSlot, State.ring, State.bump, hdepth, hslots, hhead, htail]

theorem popSlot_ring_congr : (popSlot t).ring = (popSlot s).ring := by
  obtain ⟨hdepth, hslots, hhead, htail⟩ := State.ring_eq_iff.mp h
  simp only [popSlot, State.ring, State.bump, hdepth, hslots, hhead, htail]

theorem State.fifoEmpty_congr : t.fifoEmpty = s.fifoEmpty := by
  obtain ⟨-, -, hhead, htail⟩ := State.ring_eq_iff.mp h
  rw [State.fifoEmpty, State.fifoEmpty, hhead, htail]

theorem State.fifoFull_congr : t.fifoFull = s.fifoFull := by
  obtain ⟨hdepth, -, hhead, htail⟩ := State.ring_eq_iff.mp h
  rw [State.fifoFull, State.fifoFull, State.bump, State.bump, hdepth, hhead, htail]

end SameRing

/-! ### The pending requests -/

theorem fifoEmpty_iff {s : State} : s.fifoEmpty = true ↔ s.head = s.tail := beq_iff_eq

/-- `head` lies as far behind the oldest request as there are pending ones. -/
theorem offset_head (s : State) : s.offset s.head = s.pendingCount := rfl

section Queue

variable {s : State} (h : s.FifoOk)
include h

theorem head_lt : s.head < s.cfg.depth := h.2.1

theorem tail_lt : s.tail < s.cfg.depth := h.2.2.1

theorem head_lt_length : s.head < s.slots.length := h.1 ▸ head_lt h

theorem tail_lt_length : s.tail < s.slots.length := h.1 ▸ tail_lt h

/-- The occupied slots are the ones between the indices (10_state.md R42). -/
theorem slot_isSome_iff {k : Nat} (hk : k < s.cfg.depth) : (s.slot k).isSome = true ↔ s.offset k < s.pendingCount :=
  h.2.2.2 k hk

/-- The number of pending requests by cases of the wrap-around. -/
theorem pendingCount_eq :
    s.pendingCount = if s.tail ≤ s.head then s.head - s.tail else s.head + s.cfg.depth - s.tail :=
  ring_sub (head_lt h) (tail_lt h)

theorem offset_eq {k : Nat} (hk : k < s.cfg.depth) :
    s.offset k = if s.tail ≤ k then k - s.tail else k + s.cfg.depth - s.tail :=
  ring_sub hk (tail_lt h)

theorem pendingCount_lt : s.pendingCount < s.cfg.depth := by
  have hcount := pendingCount_eq h
  have hhead := head_lt h
  have htail := tail_lt h
  split at hcount <;> omega

theorem pendingCount_eq_zero_iff : s.pendingCount = 0 ↔ s.head = s.tail := by
  have hcount := pendingCount_eq h
  have hhead := head_lt h
  have htail := tail_lt h
  split at hcount <;> omega

theorem pendingCount_full_iff : s.pendingCount + 1 = s.cfg.depth ↔ (s.head + 1) % s.cfg.depth = s.tail := by
  have hcount := pendingCount_eq h
  have hhead := head_lt h
  have htail := tail_lt h
  have hsucc := ring_succ hhead
  split at hcount <;> split at hsucc <;> omega

/-- The place of the `j`-th pending request, and how far it lies behind the oldest. -/
theorem offset_place {j : Nat} (hj : j < s.cfg.depth) : s.offset ((s.tail + j) % s.cfg.depth) = j := by
  have htail := tail_lt h
  have hplace : (s.tail + j) % s.cfg.depth = if s.tail + j < s.cfg.depth then s.tail + j else s.tail + j - s.cfg.depth := by
    split
    · exact Nat.mod_eq_of_lt (by assumption)
    · rw [Nat.mod_eq_sub_mod (by omega), Nat.mod_eq_of_lt (by omega)]
  have hoff := offset_eq h (Nat.mod_lt (s.tail + j) (by omega))
  rw [hoff, hplace]
  split <;> split <;> omega

/-- Every place between the indices holds a request: listing the slots loses nothing. -/
theorem pending_map_some :
    s.pending.map some = (List.range s.pendingCount).map fun j => s.slot ((s.tail + j) % s.cfg.depth) := by
  have hcount := pendingCount_lt h
  have hoccupied : ∀ j ∈ List.range s.pendingCount, (s.slot ((s.tail + j) % s.cfg.depth)).isSome = true := by
    intro j hj
    have hj' := List.mem_range.mp hj
    refine (slot_isSome_iff h (Nat.mod_lt _ (by omega))).mpr ?_
    rwa [offset_place h (by omega)]
  rw [State.pending, List.map_filterMap_some_eq_filter_map_isSome, List.filter_eq_self]
  rintro x hx
  obtain ⟨j, hj, rfl⟩ := List.mem_map.mp hx
  exact hoccupied j hj

theorem pending_length : s.pending.length = s.pendingCount := by
  simpa using congrArg List.length (pending_map_some h)

theorem pending_eq_nil_iff : s.pending = [] ↔ s.head = s.tail := by
  rw [← List.length_eq_zero_iff, pending_length h, pendingCount_eq_zero_iff h]

/-- The oldest request stands in the slot at `tail` (10_state.md R42). -/
theorem pending_head? (hne : s.head ≠ s.tail) : s.pending.head? = s.slot s.tail := by
  obtain ⟨n, hn⟩ := Nat.exists_eq_succ_of_ne_zero (mt (pendingCount_eq_zero_iff h).mp hne)
  have hlist := congrArg List.head? (pending_map_some h)
  rw [hn, List.range_succ_eq_map, List.map_cons, List.head?_cons, List.head?_map, Nat.add_zero,
    Nat.mod_eq_of_lt (tail_lt h)] at hlist
  cases hp : s.pending with
  | nil => simp [hp] at hlist
  | cons r l => simpa [hp] using hlist

/-- The slots of a full ring but one are taken, so storing one more overruns nothing (40_adc_scheduler.md R140). -/
theorem pushSlot_pendingCount (r : AdcRequest) (hroom : ¬(s.head + 1) % s.cfg.depth = s.tail) :
    (pushSlot r s).pendingCount = s.pendingCount + 1 := by
  have hcount := pendingCount_eq h
  have hhead := head_lt h
  have htail := tail_lt h
  have hsucc := ring_succ hhead
  have hpush : (pushSlot r s).pendingCount =
      if s.tail ≤ s.bump s.head then s.bump s.head - s.tail else s.bump s.head + s.cfg.depth - s.tail :=
    ring_sub (bump_lt (by omega)) htail
  rw [State.bump] at hpush
  rw [hpush, hcount]
  split at hsucc <;> split <;> split <;> omega

theorem pushSlot_slot (r : AdcRequest) (k : Nat) :
    (pushSlot r s).slot k = if k = s.head then some r else s.slot k :=
  State.slot_set (head_lt_length h)

theorem popSlot_slot (k : Nat) : (popSlot s).slot k = if k = s.tail then none else s.slot k :=
  State.slot_set (tail_lt_length h)

theorem offset_inj {j k : Nat} (hj : j < s.cfg.depth) (hk : k < s.cfg.depth) (he : s.offset j = s.offset k) : j = k := by
  rw [offset_eq h hj, offset_eq h hk] at he
  have htail := tail_lt h
  split at he <;> split at he <;> omega

/-- Storing a request where there is room keeps R42. -/
theorem pushSlot_fifoOk (r : AdcRequest) (hroom : ¬(s.head + 1) % s.cfg.depth = s.tail) : (pushSlot r s).FifoOk := by
  have hcount := pushSlot_pendingCount h r hroom
  have hhead := head_lt h
  have htail := tail_lt h
  refine ⟨by rw [pushSlot_slots, List.length_set]; exact h.1, bump_lt (by omega), htail, fun k hk => ?_⟩
  have hoff : (pushSlot r s).offset k = s.offset k := rfl
  rw [hcount, hoff, pushSlot_slot h]
  split
  · rename_i hkh
    simp [hkh, offset_head s]
  · rename_i hkh
    have hne : s.offset k ≠ s.pendingCount := fun he => hkh (offset_inj h hk hhead he)
    rw [slot_isSome_iff h hk]
    omega

/-- A stored request is the youngest (40_adc_scheduler.md R140). -/
theorem pushSlot_pending (r : AdcRequest) (hroom : ¬(s.head + 1) % s.cfg.depth = s.tail) :
    (pushSlot r s).pending = s.pending ++ [r] := by
  have hcount := pushSlot_pendingCount h r hroom
  have hlt := pendingCount_lt h
  have hplace : ∀ j, j < s.pendingCount → (s.tail + j) % s.cfg.depth ≠ s.head := by
    intro j hj he
    have hoff := offset_place h (hj.trans hlt)
    rw [he, offset_head s] at hoff
    omega
  have hhead : (s.tail + s.pendingCount) % s.cfg.depth = s.head :=
    offset_inj h (Nat.mod_lt _ (by omega)) (head_lt h) (offset_place h hlt)
  refine List.map_injective_iff.mpr (Option.some_injective _) ?_
  rw [pending_map_some (pushSlot_fifoOk h r hroom), hcount, List.range_succ, List.map_append, List.map_append,
    pending_map_some h]
  refine congrArg₂ (· ++ ·) (List.map_congr_left fun j hj => ?_) ?_
  · exact (pushSlot_slot h r _).trans (if_neg (hplace j (List.mem_range.mp hj)))
  · exact congrArg ([·]) ((pushSlot_slot h r _).trans (if_pos hhead))

theorem popSlot_pendingCount (hne : s.head ≠ s.tail) : (popSlot s).pendingCount + 1 = s.pendingCount := by
  have hcount := pendingCount_eq h
  have hhead := head_lt h
  have htail := tail_lt h
  have hsucc := ring_succ htail
  have hpop : (popSlot s).pendingCount =
      if s.bump s.tail ≤ s.head then s.head - s.bump s.tail else s.head + s.cfg.depth - s.bump s.tail :=
    ring_sub hhead (bump_lt (by omega))
  rw [State.bump] at hpop
  rw [hpop, hcount]
  split at hsucc <;> split <;> split <;> omega

/-- Every other slot comes one place closer to the oldest request. -/
theorem popSlot_offset {k : Nat} (hk : k < s.cfg.depth) (hkt : k ≠ s.tail) : (popSlot s).offset k + 1 = s.offset k := by
  have hoff := offset_eq h hk
  have hhead := head_lt h
  have htail := tail_lt h
  have hsucc := ring_succ htail
  have hpop : (popSlot s).offset k =
      if s.bump s.tail ≤ k then k - s.bump s.tail else k + s.cfg.depth - s.bump s.tail :=
    ring_sub hk (bump_lt (by omega))
  rw [State.bump] at hpop
  rw [hpop, hoff]
  split at hsucc <;> split <;> split <;> omega

theorem popSlot_offset_tail : (popSlot s).offset s.tail + 1 = s.cfg.depth := by
  have htail := tail_lt h
  have hsucc := ring_succ htail
  have hpop : (popSlot s).offset s.tail =
      if s.bump s.tail ≤ s.tail then s.tail - s.bump s.tail else s.tail + s.cfg.depth - s.bump s.tail :=
    ring_sub htail (bump_lt (by omega))
  rw [State.bump] at hpop
  rw [hpop]
  split at hsucc <;> split <;> omega

/-- Taking the oldest request out keeps R42. -/
theorem popSlot_fifoOk (hne : s.head ≠ s.tail) : (popSlot s).FifoOk := by
  have hcount := popSlot_pendingCount h hne
  have hlt := pendingCount_lt h
  have hhead := head_lt h
  have htail := tail_lt h
  refine ⟨by rw [popSlot_slots, List.length_set]; exact h.1, hhead, bump_lt (by omega), fun k hk => ?_⟩
  rw [popSlot_slot h]
  split
  · rename_i hkt
    have hlast := popSlot_offset_tail h
    simp only [Option.isSome_none, Bool.false_eq_true, false_iff, hkt]
    omega
  · rename_i hkt
    have hoff := popSlot_offset h hk hkt
    rw [slot_isSome_iff h hk]
    omega

/-- What is left are the younger requests, in their order (40_adc_scheduler.md R142). -/
theorem popSlot_pending (hne : s.head ≠ s.tail) : (popSlot s).pending = s.pending.tail := by
  have hcount := popSlot_pendingCount h hne
  have hlt := pendingCount_lt h
  refine List.map_injective_iff.mpr (Option.some_injective _) ?_
  rw [pending_map_some (popSlot_fifoOk h hne), List.map_tail, pending_map_some h, ← hcount, List.range_succ_eq_map,
    List.map_cons, List.tail_cons, List.map_map]
  refine List.map_congr_left fun j hj => ?_
  have hj' := List.mem_range.mp hj
  have hplace : ((popSlot s).tail + j) % (popSlot s).cfg.depth = (s.tail + (j + 1)) % s.cfg.depth := by
    rw [popSlot_tail, popSlot_cfg, State.bump, Nat.mod_add_mod, Nat.add_right_comm, Nat.add_assoc]
  rw [hplace, popSlot_slot h, if_neg]
  · rfl
  · intro he
    have hoff := offset_place h (show j + 1 < s.cfg.depth by omega)
    have hzero : s.offset s.tail = 0 := by
      rw [offset_eq h (tail_lt h)]
      simp
    rw [he] at hoff
    omega

end Queue

/-! ### One move of the queue -/

/-- The FIFO stays as it is, takes one request in where there is room, or gives the oldest one of some out
(40_adc_scheduler.md R140, R142). -/
def RingMove (s t : State) : Prop :=
  t.ring = s.ring ∨ (∃ r, s.fifoFull = false ∧ t.ring = (pushSlot r s).ring) ∨
    (s.fifoEmpty = false ∧ t.ring = (popSlot s).ring)

theorem RingMove.fifoOk {s t : State} (hm : RingMove s t) (h : s.FifoOk) : t.FifoOk := by
  rcases hm with hring | ⟨r, hroom, hring⟩ | ⟨hne, hring⟩
  · exact State.fifoOk_congr hring h
  · exact State.fifoOk_congr hring (pushSlot_fifoOk h r (mt fifoFull_iff.mpr (by simp [hroom])))
  · exact State.fifoOk_congr hring (popSlot_fifoOk h (mt fifoEmpty_iff.mpr (by simp [hne])))

theorem RingMove.pending {s t : State} (hm : RingMove s t) (h : s.FifoOk) :
    t.pending = s.pending ∨ (∃ r, t.pending = s.pending ++ [r]) ∨ t.pending = s.pending.tail := by
  rcases hm with hring | ⟨r, hroom, hring⟩ | ⟨hne, hring⟩
  · exact .inl (State.pending_congr hring)
  · refine .inr (.inl ⟨r, (State.pending_congr hring).trans ?_⟩)
    exact pushSlot_pending h r (mt fifoFull_iff.mpr (by simp [hroom]))
  · refine .inr (.inr ((State.pending_congr hring).trans ?_))
    exact popSlot_pending h (mt fifoEmpty_iff.mpr (by simp [hne]))

/-- A move between states with the same rings. -/
theorem RingMove.congr {s s' t t' : State} (hs : s'.ring = s.ring) (ht : t'.ring = t.ring) (h : RingMove s' t) :
    RingMove s t' := by
  rcases h with hring | ⟨r, hroom, hring⟩ | ⟨hne, hring⟩
  · exact .inl ((ht.trans hring).trans hs)
  · exact .inr (.inl ⟨r, State.fifoFull_congr hs ▸ hroom, (ht.trans hring).trans (pushSlot_ring_congr hs r)⟩)
  · exact .inr (.inr ⟨State.fifoEmpty_congr hs ▸ hne, (ht.trans hring).trans (popSlot_ring_congr hs)⟩)

end Sys2Proof.Machine
end

section
/-! SUPPORT. The invariant in three parts (10_state.md R26, R42, R57, 42_interrupt_dispatcher.md R201, R202, R235) and
the two relations that carry it: `Quiet` for what leaves FIFO, removal counter and task states alone, `Moves` for a whole
operation. -/

namespace Sys2Proof.Machine

/-! ### The parts of the invariant -/

/-- The registers' part: sound, the held counter in its range (10_state.md R26), and an edge already seen only while the
line is high (42_interrupt_dispatcher.md R235). -/
structure State.Steady (s : State) : Prop where
  sound : s.Sound
  held : -1 ≤ s.onkeySeconds
  line : s.irqSeen = true → s.irqLine = true

/-- The tasks' part: a pass exactly while the Dispatcher runs (10_state.md R57), and then with the gate open and past
PROBE (42_interrupt_dispatcher.md R201, R202); the notifier idle between transitions; nothing suspended before PROBE. -/
structure State.Control (s : State) : Prop where
  pass_iff : s.pass.isSome = true ↔ s.disp ≠ .idle
  gate : s.disp ≠ .idle → s.accessAllowed = true ∧ s.probed = true
  notifier : s.curlim.task = .idle
  unprobed : s.probed = false → s.suspend = .running

theorem State.inv_iff {s : State} : s.Inv ↔ s.Steady ∧ s.FifoOk ∧ s.Control := by
  constructor
  · rintro ⟨hsound, hfifo, hheld, hpass, hgate, hline, htask, hunprobed⟩
    exact ⟨⟨hsound, hheld, hline⟩, hfifo, ⟨hpass, hgate, htask, hunprobed⟩⟩
  · rintro ⟨⟨hsound, hheld, hline⟩, hfifo, ⟨hpass, hgate, htask, hunprobed⟩⟩
    exact ⟨hsound, hfifo, hheld, hpass, hgate, hline, htask, hunprobed⟩

/-- The fields that decide FIFO, removal counter and `Control`; of the Dispatcher's state only whether it runs. -/
structure Anchor where
  cfg : Config
  ring : Nat × List (Option AdcRequest) × Nat × Nat
  removals : Nat
  hasPass : Bool
  inPass : Bool
  suspend : SuspendState
  probed : Bool
  notifier : TaskState

def State.anchor (s : State) : Anchor where
  cfg := s.cfg
  ring := s.ring
  removals := s.usbRemovalCount
  hasPass := s.pass.isSome
  inPass := decide (s.disp ≠ .idle)
  suspend := s.suspend
  probed := s.probed
  notifier := s.curlim.task

@[simp] theorem State.setReg_anchor (s : State) (a : Nat) (v : Byte) : (s.setReg a v).anchor = s.anchor := rfl

theorem State.Control.congr {s t : State} (ha : t.anchor = s.anchor) (h : s.Control) : t.Control := by
  have hpass : t.pass.isSome = s.pass.isSome := congrArg Anchor.hasPass ha
  have hdisp : t.disp ≠ .idle ↔ s.disp ≠ .idle := decide_eq_decide.mp (congrArg Anchor.inPass ha)
  have hsuspend : t.suspend = s.suspend := congrArg Anchor.suspend ha
  have hprobed : t.probed = s.probed := congrArg Anchor.probed ha
  have htask : t.curlim.task = s.curlim.task := congrArg Anchor.notifier ha
  refine ⟨?_, ?_, htask.trans h.notifier, ?_⟩
  · rw [hpass, hdisp]
    exact h.pass_iff
  · rw [hdisp, State.accessAllowed, hsuspend, hprobed]
    exact h.gate
  · rw [hprobed, hsuspend]
    exact h.unprobed

/-- Without a pass and with an idle Dispatcher, past PROBE. -/
theorem State.Control.of_idle {s : State} (hdisp : s.disp = .idle) (hpass : s.pass = none) (hprobed : s.probed = true)
    (htask : s.curlim.task = .idle) : s.Control :=
  ⟨by simp [hdisp, hpass], fun h => absurd hdisp h, htask, fun h => by simp [hprobed] at h⟩

/-- With the gate closed no pass runs. -/
theorem State.Control.idle_of_closed {s : State} (h : s.Control) (hgate : s.accessAllowed = false) :
    s.disp = .idle ∧ s.pass = none := by
  have hdisp : s.disp = .idle := by
    by_contra hd
    simpa [hgate] using (h.gate hd).1
  exact ⟨hdisp, Option.not_isSome_iff_eq_none.mp fun hp => h.pass_iff.mp hp hdisp⟩

/-! ### What leaves the queue, the counter and the tasks alone -/

/-- `t` comes from `s` by something that leaves the anchor alone and the registers' part of the invariant true. -/
structure Quiet (s t : State) : Prop where
  anchor : t.anchor = s.anchor
  steady : s.Steady → t.Steady

section QuietRules

variable {s t u : State}

theorem Quiet.refl (s : State) : Quiet s s := ⟨rfl, id⟩

theorem Quiet.trans (h : Quiet s t) (k : Quiet t u) : Quiet s u := ⟨k.anchor.trans h.anchor, k.steady ∘ h.steady⟩

theorem Quiet.cfg (h : Quiet s t) : t.cfg = s.cfg := congrArg Anchor.cfg h.anchor

theorem Quiet.ring (h : Quiet s t) : t.ring = s.ring := congrArg Anchor.ring h.anchor

/-- An update of fields the invariant does not speak of. -/
theorem Quiet.of_fields (ha : t.anchor = s.anchor)
    (hf : (t.regs, t.irqSeen, t.onkeySeconds) = (s.regs, s.irqSeen, s.onkeySeconds)) : Quiet s t := by
  simp only [Prod.mk.injEq] at hf
  obtain ⟨hregs, hseen, hheld⟩ := hf
  have hcfg : t.cfg = s.cfg := congrArg Anchor.cfg ha
  refine ⟨ha, fun h => ⟨⟨hcfg ▸ h.sound.1, hregs ▸ h.sound.2⟩, hheld ▸ h.held, ?_⟩⟩
  rw [hseen, State.irqLine_of_regs hcfg hregs]
  exact h.line

/-- An update of registers after which the line is settled (42_interrupt_dispatcher.md R235). -/
theorem Quiet.of_settled (ha : t.anchor = s.anchor) (hwf : Memory.wf s.regs = true → Memory.wf t.regs = true)
    (hheld : t.onkeySeconds = s.onkeySeconds) (hline : t.irqSeen = true → t.irqLine = true) : Quiet s t := by
  have hcfg : t.cfg = s.cfg := congrArg Anchor.cfg ha
  exact ⟨ha, fun h => ⟨⟨hcfg ▸ h.sound.1, hwf h.sound.2⟩, hheld ▸ h.held, hline⟩⟩

theorem Quiet.of_settleLine (ha : t.anchor = s.anchor) (hwf : Memory.wf s.regs = true → Memory.wf t.regs = true)
    (hheld : t.onkeySeconds = s.onkeySeconds) : Quiet s t.settleLine := by
  refine .of_settled ha hwf hheld fun hseen => ?_
  rw [State.irqLine_of_regs (s := t) (t := t.settleLine) rfl rfl]
  exact (Bool.and_eq_true_iff.mp hseen).2

/-- An update of registers that raises the line or leaves it. -/
theorem Quiet.of_line (ha : t.anchor = s.anchor) (hwf : Memory.wf s.regs = true → Memory.wf t.regs = true)
    (hf : (t.irqSeen, t.onkeySeconds) = (s.irqSeen, s.onkeySeconds))
    (hline : s.Sound → s.irqLine = true → t.irqLine = true) : Quiet s t := by
  simp only [Prod.mk.injEq] at hf
  obtain ⟨hseen, hheld⟩ := hf
  have hcfg : t.cfg = s.cfg := congrArg Anchor.cfg ha
  exact ⟨ha, fun h => ⟨⟨hcfg ▸ h.sound.1, hwf h.sound.2⟩, hheld ▸ h.held, fun hs => hline h.sound (h.line (hseen ▸ hs))⟩⟩

theorem irqLine_of_sameRegsBut {a n : Nat} (hcfg : t.cfg = s.cfg) (hout : ∀ b, ¬InBlock a n b → t.reg b = s.reg b)
    (htouch : s.touchesLine a n = false) : t.irqLine = s.irqLine := by
  simp only [State.touchesLine, meets, Bool.or_eq_false_iff, Bool.and_eq_false_iff, decide_eq_false_iff_not] at htouch
  obtain ⟨hint, hintm⟩ := htouch
  refine State.irqLine_congr hcfg fun i hi => ⟨hout _ ?_, hout _ ?_⟩
  · rintro ⟨h1, h2⟩
    rw [State.intAt] at h1 h2
    omega
  · rintro ⟨h1, h2⟩
    rw [State.intmAt] at h1 h2
    omega

/-- An access to the registers `a .. a+n-1`, with the line settled where it touches the line (20_memory.md R85). -/
theorem Quiet.of_access {a n : Nat} (ha : t.anchor = s.anchor)
    (hwf : Memory.wf s.regs = true → Memory.wf t.regs = true) (hheld : t.onkeySeconds = s.onkeySeconds)
    (hout : s.Sound → ∀ b, ¬InBlock a n b → t.reg b = s.reg b)
    (hseen : t.irqSeen = if s.touchesLine a n then s.irqSeen && t.irqLine else s.irqSeen) : Quiet s t := by
  cases htouch : s.touchesLine a n with
  | true =>
    rw [if_pos htouch] at hseen
    exact .of_settled ha hwf hheld fun h => (Bool.and_eq_true_iff.mp (hseen ▸ h)).2
  | false =>
    rw [if_neg (by simp [htouch])] at hseen
    refine .of_line ha hwf (by rw [hseen, hheld]) fun hs h => ?_
    rw [irqLine_of_sameRegsBut (congrArg Anchor.cfg ha) (hout hs) htouch]
    exact h

/-- A write to a named register outside the two groups: the line stays as it is (20_memory.md R78). The places are those of
`Config.address_ne`. -/
theorem Quiet.setNamed {v : Byte} (h : Quiet s t) (k : Nat) (hk : 10 ≤ k ∧ k < 20 := by decide) :
    Quiet s (t.setReg (s.cfg.addresses.getD k 0) v) := by
  refine h.trans (.of_line rfl State.setReg_wf rfl fun hs hline => ?_)
  rw [State.irqLine_congr (s := t) (t := t.setReg _ v) rfl fun i hi => ⟨?_, ?_⟩]
  · exact hline
  · exact State.setReg_reg_ne hs.2 (h.cfg ▸ Config.int_ne hs.1 i k hi hk.1 hk.2)
  · exact State.setReg_reg_ne hs.2 (h.cfg ▸ Config.intm_ne hs.1 i k hi hk.1 hk.2)

theorem Quiet.emit {o : Output} (h : Quiet s t) : Quiet s (t.emit o) := h.trans (.of_fields rfl rfl)

theorem Quiet.ret {c : Option Byte} {v : ReturnValue} (h : Quiet s t) : Quiet s (t.ret c v) :=
  h.trans (.of_fields rfl rfl)

theorem Quiet.setNext {m : Pass → MicroStep} (h : Quiet s t) : Quiet s (t.setNext m) := by
  refine h.trans (.of_fields ?_ rfl)
  simp only [State.anchor, State.setNext_pass, Option.isSome_map]
  rfl

theorem raise_quiet (s : State) (c : Option Byte) (e : ErrorCode) : Quiet s (s.raise c e) := (Quiet.refl s).ret

theorem violation_quiet (s : State) (c : Option Byte) : Quiet s (s.violation c) := (Quiet.refl s).emit.ret

theorem maskTick_quiet (s : State) : Quiet s s.maskTick := .of_settleLine rfl State.setBitsAt_wf rfl

theorem unmaskTick_quiet (s : State) : Quiet s s.unmaskTick := .of_settleLine rfl State.clearBitsAt_wf rfl

end QuietRules

/-! ### A whole operation -/

/-- `t` comes from `s` by one operation: the queue moves at most once, the removal counter counts one removal if
`counted` says so (10_state.md R24), and the other two parts of the invariant stay true. -/
structure Moves (counted : Bool) (s t : State) : Prop where
  cfg : t.cfg = s.cfg
  ring : RingMove s t
  removals : t.usbRemovalCount = if counted then s.cfg.countAfter s.usbRemovalCount else s.usbRemovalCount
  control : s.Control → t.Control
  steady : s.Steady → t.Steady

section MovesRules

variable {s t u : State} {c : Bool}

theorem Moves.inv (hm : Moves c s t) (h : s.Inv) : t.Inv := by
  obtain ⟨hsteady, hfifo, hcontrol⟩ := State.inv_iff.mp h
  exact State.inv_iff.mpr ⟨hm.steady hsteady, hm.ring.fifoOk hfifo, hm.control hcontrol⟩

theorem Quiet.moves (h : Quiet s t) : Moves false s t where
  cfg := h.cfg
  ring := .inl h.ring
  removals := congrArg Anchor.removals h.anchor
  control := .congr h.anchor
  steady := h.steady

theorem Moves.quiet (h : Moves c s t) (k : Quiet t u) : Moves c s u where
  cfg := k.cfg.trans h.cfg
  ring := h.ring.congr rfl k.ring
  removals := (congrArg Anchor.removals k.anchor).trans h.removals
  control := fun hs => (h.control hs).congr k.anchor
  steady := fun hs => k.steady (h.steady hs)

/-- A move of the queue after something that left the ring alone. -/
theorem Moves.andThen (h : Moves c s t) (hring : t.ring = s.ring) (k : Moves false t u) : Moves c s u where
  cfg := k.cfg.trans h.cfg
  ring := k.ring.congr hring rfl
  removals := k.removals.trans h.removals
  control := k.control ∘ h.control
  steady := k.steady ∘ h.steady

theorem Quiet.andThen (h : Quiet s t) (k : Moves false t u) : Moves false s u := h.moves.andThen h.ring k

theorem Moves.setNext {m : Pass → MicroStep} (h : Moves c s t) : Moves c s (t.setNext m) :=
  h.quiet (Quiet.refl t).setNext

end MovesRules

end Sys2Proof.Machine
end

section
/-! SUPPORT. Every operation moves the queue at most once, counts a removal only where EV_USB_REM is processed, and keeps
the registers' and the tasks' part of the invariant: the frames, the shared operations, the rules, the operations. -/

namespace Sys2Proof.Machine

/-! ### The frames in which the meanings run -/

section Frames

variable {s t u : State} {b : Bool} {c : Option Byte} {body : State → State}

theorem powered_moves (h : powered s (.next u) = .next t) (k : Moves b s u) : Moves b s t :=
  Host.Outcome.next.inj (powered_next.mp h).2 ▸ k

theorem internalOp_moves (h : internalOp s (.next u) = .next t) (k : Moves b s u) : Moves b s t :=
  Host.Outcome.next.inj (internalOp_next.mp h).2.2 ▸ k

theorem eventStep_moves {e : Event} {rule : State → State} (h : eventStep e rule s = .next t)
    (k : Moves b s (rule s)) : Moves b s t := internalOp_moves h k.setNext

theorem hostCommand_moves (h : hostCommand s c body = .next t) (k : s.probed = true → Moves false s (body s)) :
    Moves false s t := by
  obtain ⟨-, rfl⟩ := hostCommand_next.mp h
  split
  · exact k (by assumption)
  · exact (raise_quiet _ _ _).moves

theorem throughGate_moves (k : Moves false s (body s)) : Moves false s (throughGate c body s) := by
  unfold throughGate
  split
  · exact k
  · exact (violation_quiet _ _).moves

/-- A host command that the access gate stops. -/
theorem gatedCommand_moves (h : hostCommand s c (throughGate c body) = .next t) (k : Moves false s (body s)) :
    Moves false s t := hostCommand_moves h fun _ => throughGate_moves k

theorem guarded_moves {g : State → Bool} (k : g s = true → Moves false s (body s)) :
    Moves false s (guarded g body s) := by
  unfold guarded
  split
  · exact k (by assumption)
  · exact (Quiet.refl s).moves

theorem inRange_moves {reg count : Byte} (k : outOfRange reg count = false → Moves false s (body s)) :
    Moves false s (inRange reg count body s) := by
  unfold inRange
  split
  · exact (raise_quiet _ _ _).moves
  · exact k (by simpa using ‹¬outOfRange reg count = true›)

theorem onBus_moves (k : Moves false s (body s)) : Moves false s (onBus body s) := by
  unfold onBus
  split
  · exact (raise_quiet _ _ _).moves
  · exact k

end Frames

/-! ### The interrupt line -/

theorem State.irqLine_iff {s : State} : s.irqLine = true ↔ ∃ i < 5, s.asserts i = true := by
  constructor
  · intro h
    simp only [State.irqLine, Bool.or_eq_true] at h
    rcases h with (((h | h) | h) | h) | h
    · exact ⟨0, by decide, h⟩
    · exact ⟨1, by decide, h⟩
    · exact ⟨2, by decide, h⟩
    · exact ⟨3, by decide, h⟩
    · exact ⟨4, by decide, h⟩
  · rintro ⟨i, hi, h⟩
    interval_cases i <;> simp [State.irqLine, h]

/-- A bit that is set once more leaves the others set. -/
theorem and_ne_zero_of_or {x m n : Byte} (h : x &&& n ≠ 0) : (x ||| m) &&& n ≠ 0 := by
  rw [BitVec.and_or_distrib_right]
  exact fun h0 => h (BitVec.or_eq_zero_iff.mp h0).1

/-- Latching a source never makes the line fall (42_interrupt_dispatcher.md R234). -/
theorem irqLine_latch {s : State} {i b : Nat} (hi : i < 5) (hs : s.Sound) (h : s.irqLine = true) :
    (s.latch i b).irqLine = true := by
  obtain ⟨j, hj, hasserts⟩ := State.irqLine_iff.mp h
  have hmask : (s.latch i b).reg (s.intmAt j) = s.reg (s.intmAt j) :=
    State.setReg_reg_ne hs.2 (Config.groups_ne hs.1 i j hi hj).symm
  have hint : (s.latch i b).reg (s.intAt j) =
      if s.intAt j = s.intAt i ∧ s.intAt i < 256 then s.reg (s.intAt i) ||| 1#8 <<< b else s.reg (s.intAt j) :=
    State.setBitsAt_reg hs.2
  refine State.irqLine_iff.mpr ⟨j, hj, ?_⟩
  have hne : s.reg (s.intAt j) &&& ~~~s.reg (s.intmAt j) ≠ 0 := bne_iff_ne.mp hasserts
  refine bne_iff_ne.mpr ?_
  show (s.latch i b).reg (s.intAt j) &&& ~~~(s.latch i b).reg (s.intmAt j) ≠ 0
  rw [hmask, hint]
  split
  · rename_i hij
    rw [← hij.1]
    exact and_ne_zero_of_or hne
  · exact hne

theorem latch_quiet (s : State) {i : Nat} (hi : i < 5) (b : Nat) : Quiet s (s.latch i b) :=
  .of_line rfl State.setBitsAt_wf rfl (irqLine_latch hi)

/-! ### The register transport -/

section Transport

variable {s t : State}

theorem settleAfter_quiet {a n : Nat}
    (hf : (t.anchor, t.irqSeen, t.onkeySeconds) = (s.anchor, s.irqSeen, s.onkeySeconds))
    (hwf : Memory.wf s.regs = true → Memory.wf t.regs = true)
    (hout : s.Sound → ∀ b, ¬InBlock a n b → t.reg b = s.reg b) : Quiet s (t.settleAfter a n) := by
  simp only [Prod.mk.injEq] at hf
  obtain ⟨ha, hseen, hheld⟩ := hf
  have htouch : t.touchesLine a n = s.touchesLine a n := by
    rw [State.touchesLine, State.touchesLine, show t.cfg = s.cfg from congrArg Anchor.cfg ha]
  rw [State.settleAfter_eq]
  refine .of_access ha hwf hheld hout ?_
  rw [← htouch, ← hseen]
  rfl

variable (s)

theorem clearCovered_quiet (a n : Nat) : Quiet s (s.clearCovered a n) := by
  have hseen : (s.clearCovered a n).irqSeen =
      if s.touchesLine a n then s.irqSeen && (s.clearCovered a n).irqLine else s.irqSeen := by
    conv_lhs => rw [State.clearCovered_eq]
  refine .of_access ?_ State.clearCovered_wf (by rw [State.clearCovered_eq]) (fun hs b hb => ?_) hseen
  · rw [State.clearCovered_eq]
    rfl
  · rw [State.clearCovered_reg hs, if_neg fun h => hb h.1]

/-- A host's write of one register touches no task, no queue and no seen edge. -/
theorem hostStore_fields (a : Nat) (v junk : Byte) :
    ((s.hostStore a v junk).anchor, (s.hostStore a v junk).irqSeen, (s.hostStore a v junk).onkeySeconds) =
      (s.anchor, s.irqSeen, s.onkeySeconds) := by
  unfold State.hostStore State.adcctlWritten
  split
  · rfl
  · split
    · split <;> rfl
    · split <;> rfl

theorem hostStoreBlock_fields (a : Nat) (data junk : List Byte) (stored : List Bool) :
    ((s.hostStoreBlock a data junk stored).anchor, (s.hostStoreBlock a data junk stored).irqSeen,
      (s.hostStoreBlock a data junk stored).onkeySeconds) = (s.anchor, s.irqSeen, s.onkeySeconds) := by
  induction data generalizing s a junk stored with
  | nil => rfl
  | cons v data ih =>
    unfold State.hostStoreBlock
    split
    · exact (ih _ _ _ _).trans (hostStore_fields s _ _ _)
    · exact ih _ _ _ _

theorem hostModify_quiet (reg v : Byte) : Quiet s (hostModify reg v s) := by
  refine (settleAfter_quiet (hostStore_fields s _ _ _) State.hostStore_wf fun hs b hb => ?_).ret
  obtain ⟨-, hother, -⟩ := State.hostStore_spec reg.toNat v (s.draws.junk.headD 0) hs reg.isLt
  exact hother b fun hmem => hb (by simp at hmem; exact ⟨hmem.ge, by omega⟩)

theorem hostWrite_quiet (reg : Byte) (data : List Byte) (hdata : reg.toNat + data.length ≤ 256) :
    Quiet s (hostWrite reg data s) := by
  have hstored : ∀ stored,
      Quiet s ((s.hostStoreBlock reg.toNat data s.draws.junk stored).settleAfter reg.toNat data.length) := by
    intro stored
    refine settleAfter_quiet (hostStoreBlock_fields s _ _ _ _) State.hostStoreBlock_wf fun hs b hb => ?_
    obtain ⟨-, hother, -⟩ := State.hostStoreBlock_spec reg.toNat data s.draws.junk stored hs hdata
    exact hother b fun hb' => hb hb'.1
  unfold hostWrite
  dsimp only
  split
  · exact (hstored _).ret
  · exact (hstored _).ret

end Transport

/-! ### The charger machine -/

section Charger

variable (s : State)

theorem chargeEnable_quiet (on : Bool) : Quiet s (chargeEnable on s) := by
  have hflag : ∀ b, Quiet s (s.setChgEnabled b) := fun _ => .of_fields rfl rfl
  have hset : ∀ b v, Quiet s ((s.setChgEnabled b).setReg s.cfg.aChgctl.toNat v) := fun b _ => (hflag b).setNamed 14
  unfold chargeEnable
  dsimp only
  split
  · split
    · split
      · exact (hset _ _).emit
      · exact hset _ _
    · split
      · exact (hset _ _).emit
      · exact hset _ _
  · exact .refl s

theorem autoresumeHandshake_quiet : Quiet s (autoresumeHandshake s) :=
  (((Quiet.refl s).setNamed 14).setNamed 14).setNamed 14

theorem setCurrentLimit_quiet (ma : Nat) : Quiet s (setCurrentLimit ma s) :=
  (((Quiet.refl s).setNamed 13).trans (chargeEnable_quiet _ _)).trans (autoresumeHandshake_quiet _)

theorem applyPolicy_quiet (type : ChargerType) : Quiet s (applyPolicy type s) := by
  refine Quiet.setNamed ?_ 15
  cases type with
  | none => exact setCurrentLimit_quiet s _
  | hostLimited => exact setCurrentLimit_quiet s _
  | oneAmp => exact ((Quiet.refl s).setNamed 16).trans (setCurrentLimit_quiet _ _)

theorem classifyDone_quiet (snapshot result : Nat) : Quiet s (classifyDone snapshot result s) := by
  unfold classifyDone
  split
  · exact applyPolicy_quiet s _
  · exact .refl s

theorem batfullDance_quiet : Quiet s (batfullDance s) := ((Quiet.refl s).setNamed 13).setNamed 13

theorem curlimRun_quiet : Quiet s (curlimRun s) := by
  unfold curlimRun
  dsimp only
  split
  · exact .of_fields rfl rfl
  · split
    · exact .of_fields rfl rfl
    · refine Quiet.trans ?_ (setCurrentLimit_quiet _ _)
      exact .of_fields rfl rfl

end Charger

/-! ### The ADC scheduler -/

section Scheduler

variable (s : State)

theorem setAdcHw_quiet (x : AdcHw) : Quiet s { s with adcHw := x } := .of_fields rfl rfl

theorem adcStart_quiet (r : AdcRequest) : Quiet s (adcStart r s) :=
  ((Quiet.refl s).setNamed 10).trans (setAdcHw_quiet _ _)

theorem pushSlot_moves (r : AdcRequest) (hroom : s.fifoFull = false) : Moves false s (pushSlot r s) where
  cfg := rfl
  ring := .inr (.inl ⟨r, hroom, rfl⟩)
  removals := rfl
  control := fun h => ⟨h.pass_iff, h.gate, h.notifier, h.unprobed⟩
  steady := fun h => ⟨h.sound, h.held, h.line⟩

theorem popSlot_moves (hne : s.fifoEmpty = false) : Moves false s (popSlot s) where
  cfg := rfl
  ring := .inr (.inr ⟨hne, rfl⟩)
  removals := rfl
  control := fun h => ⟨h.pass_iff, h.gate, h.notifier, h.unprobed⟩
  steady := fun h => ⟨h.sound, h.held, h.line⟩

/-- An accepted request is stored, and perhaps started (40_adc_scheduler.md R140). -/
theorem enqueueAccepted_pushes (r : AdcRequest) : Quiet (pushSlot r s) (enqueueAccepted r s) := by
  unfold enqueueAccepted
  split
  · exact adcStart_quiet _ r
  · exact .refl _

theorem adcEnqueue_moves {ok full : State → State} (r : AdcRequest) (hok : ∀ u, Quiet u (ok u))
    (hfull : ∀ u, Quiet u (full u)) : Moves false s (adcEnqueue r ok full s) := by
  unfold adcEnqueue
  split
  · exact ((Quiet.refl s).emit.trans (hfull _)).moves
  · rename_i hroom
    exact (pushSlot_moves s r (by simpa using hroom)).quiet ((enqueueAccepted_pushes s r).trans (hok _))

theorem block_quiet (w : Byte) (f : WaitFor) : Quiet s (block w f s) := .of_fields rfl rfl

theorem classifyTrigger_moves : Moves false s (classifyTrigger s) :=
  adcEnqueue_moves s _ .refl fun u => (Quiet.refl u).emit

theorem deliver_quiet (r : AdcRequest) (v : BitVec 10) : Quiet s (deliver r v s) := by
  have hemit : Quiet s (s.emit (.adcDone r.target r.param v.toNat)) := (Quiet.refl s).emit
  unfold deliver
  dsimp only
  split
  · exact hemit.trans (.of_fields rfl rfl)
  · exact hemit
  · exact hemit.trans (classifyDone_quiet _ _ _)

theorem startNext_quiet {s t : State} (h : startNext s = some t) : Quiet s t := by
  unfold startNext at h
  split at h
  · cases h
    exact .refl s
  · obtain ⟨r, -, rfl⟩ := Option.map_eq_some_iff.mp h
    exact adcStart_quiet s r

/-- A completion with nothing pending reports the defect; else it takes the oldest request out, reports its result and
starts the next (40_adc_scheduler.md R142). -/
theorem adcComplete_cases {s t : State} (h : adcComplete s = some t) :
    (s.fifoEmpty = true ∧ t = s.emit (.defect .adcReadyEmptyFifo)) ∨
      ∃ r, s.fifoEmpty = false ∧ s.slot s.tail = some r ∧
        startNext (deliver r s.conversionResult (popSlot s)) = some t := by
  unfold adcComplete at h
  split at h
  · rename_i hempty
    exact .inl ⟨hempty, (Option.some.inj h).symm⟩
  · rename_i hne
    obtain ⟨r, hr, hnext⟩ := Option.bind_eq_some_iff.mp h
    exact .inr ⟨r, by simpa using hne, hr, hnext⟩

theorem adcComplete_moves {s t : State} (h : adcComplete s = some t) : Moves false s t := by
  rcases adcComplete_cases h with ⟨-, rfl⟩ | ⟨r, hne, -, hnext⟩
  · exact (Quiet.refl s).emit.moves
  · exact (popSlot_moves s hne).quiet ((deliver_quiet _ _ _).trans (startNext_quiet hnext))

end Scheduler

/-! ### The poller and the coordinator -/

section Coordinator

variable (s : State)

theorem nobatStart_quiet : Quiet s (nobatStart s) := by
  unfold nobatStart
  split <;> exact .of_fields rfl rfl

theorem nobatCycle_moves : Moves false s (nobatCycle s) := by
  unfold nobatCycle
  split
  · exact (Quiet.refl s).moves
  · split
    · have hinsert : Quiet s { s with lastBatInsert := some s.now } := .of_fields rfl rfl
      exact (hinsert.andThen (classifyTrigger_moves _)).quiet (.of_fields rfl rfl)
    · split <;> exact Quiet.moves (.of_fields rfl rfl)

/-- Asking for a pass does not change whether one runs (42_interrupt_dispatcher.md R200). -/
theorem requestDispatch_quiet : Quiet s s.requestDispatch := by
  unfold State.requestDispatch
  split
  · exact .of_fields rfl rfl
  · rename_i hdisp
    refine .of_fields ?_ rfl
    simp [State.anchor, State.ring, hdisp]

theorem standby_quiet : Quiet s (standby s) := ((Quiet.refl s).setNamed 19).trans (.of_fields rfl rfl)

/-- The coordinator moves on only past PROBE and where no pass runs (43_suspend_and_tasks.md R260, R261). -/
theorem setSuspend_moves {s : State} (d : Bool) (x : SuspendState) (hidle : s.Control → s.disp = .idle)
    (hprobed : s.Control → s.probed = true) : Moves false s { s with irqDelivery := d, suspend := x } where
  cfg := rfl
  ring := .inl rfl
  removals := rfl
  control := fun h => .of_idle (hidle h)
    (Option.not_isSome_iff_eq_none.mp fun hp => h.pass_iff.mp hp (hidle h)) (hprobed h) h.notifier
  steady := fun h => ⟨h.sound, h.held, h.line⟩

/-- While the gate is closed the device is past PROBE and no pass runs. -/
theorem setSuspend_moves_of_closed {s : State} (d : Bool) (x : SuspendState) (hgate : s.accessAllowed = false) :
    Moves false s { s with irqDelivery := d, suspend := x } := by
  refine setSuspend_moves d x (fun h => (h.idle_of_closed hgate).1) fun h => ?_
  by_contra hp
  simp [State.accessAllowed, h.unprobed (by simpa using hp)] at hgate

theorem closed_of_quiet {s t : State} (h : Quiet s t) (hgate : s.accessAllowed = false) : t.accessAllowed = false := by
  rwa [State.accessAllowed, show t.suspend = s.suspend from congrArg Anchor.suspend h.anchor]

theorem writeGroup_settled_quiet (a : Nat) (v : Bytes5) : Quiet s (s.writeGroup a v).settleLine := by
  refine .of_settleLine ?_ State.writeGroup_wf (by rw [State.writeGroup_eq])
  simp only [State.writeGroup, State.setReg_anchor]

theorem suspendFinish_moves (hsuspend : s.suspend = .startingSuspend) : Moves false s (suspendFinish s) := by
  have hsaved : Quiet s { s with savedMask := s.readGroup (s.intmAt 0) } := .of_fields rfl rfl
  have hmasks := hsaved.trans (writeGroup_settled_quiet _ (s.intmAt 0) (suspendMasks s.cfg))
  refine (hmasks.andThen (setSuspend_moves_of_closed false .completedSuspend ?_)).quiet (Quiet.refl _).ret
  exact closed_of_quiet hmasks (by simp [State.accessAllowed, hsuspend])

theorem resumeFinish_moves (hsuspend : s.suspend = .startingResume) : Moves false s (resumeFinish s) := by
  have hmasks := (writeGroup_settled_quiet s (s.intmAt 0) s.savedMask).trans (maskTick_quiet _)
  refine (hmasks.andThen (setSuspend_moves_of_closed true .completedResume ?_)).quiet (requestDispatch_quiet _).ret
  exact closed_of_quiet hmasks (by simp [State.accessAllowed, hsuspend])

theorem coordinatorFinish_moves : Moves false s (coordinatorFinish s) := by
  unfold coordinatorFinish
  cases hsuspend : s.suspend with
  | startingSuspend => exact suspendFinish_moves s hsuspend
  | startingResume => exact resumeFinish_moves s hsuspend
  | running => exact (Quiet.refl s).moves
  | completedSuspend => exact (Quiet.refl s).moves
  | completedResume => exact (Quiet.refl s).moves

theorem wakeCaller_quiet (w : Byte) : Quiet s (wakeCaller w s) := by
  unfold wakeCaller
  split
  · exact .of_fields rfl rfl
  · exact .refl s

end Coordinator

/-! ### The events -/

section Events

variable (s : State)

/-- A removal without an insertion in the same block counts once (10_state.md R24, 42_interrupt_dispatcher.md R213). -/
theorem ruleUsbRem_moves : Moves (!s.passHas .usbIns) s (ruleUsbRem s) := by
  unfold ruleUsbRem
  split
  · rename_i hins
    rw [hins]
    exact (Quiet.refl s).moves
  · rename_i hins
    rw [show s.passHas .usbIns = false by simpa using hins]
    have hcount : Moves true s
        { s with usbRemovalCount := s.cfg.countAfter s.usbRemovalCount, lastCurlim := 0 } :=
      { cfg := rfl, ring := .inl rfl, removals := rfl
        control := fun h => ⟨h.pass_iff, h.gate, h.notifier, h.unprobed⟩
        steady := fun h => ⟨h.sound, h.held, h.line⟩ }
    have husb : ∀ t, Quiet t (t.setUsbPresent false) := fun _ => .of_fields rfl rfl
    exact (hcount.quiet (husb _).emit.emit).andThen rfl (classifyTrigger_moves _)

theorem forwardRtc_quiet (k : RtcKind) : Quiet s (forwardRtc k s) := by
  unfold forwardRtc
  split
  · exact (Quiet.refl s).emit
  · exact .refl s

/-- The held counter only rises from where it counts (10_state.md R26). -/
theorem countHeld_quiet : Quiet s (countHeld s) := by
  have hcount : 0 ≤ s.onkeySeconds → Quiet s { s with onkeySeconds := s.onkeySeconds + 1 } := fun hheld =>
    ⟨rfl, fun h => ⟨h.sound, by show -1 ≤ s.onkeySeconds + 1; omega, h.line⟩⟩
  unfold countHeld
  dsimp only
  split
  · rename_i hheld
    split
    · split
      · exact (hcount hheld.1).emit.trans (standby_quiet _)
      · exact (hcount hheld.1).emit
    · split
      · exact (hcount hheld.1).trans (standby_quiet _)
      · exact hcount hheld.1
  · exact .refl s

theorem ruleOnkeyF_quiet : Quiet s (ruleOnkeyF s) := by
  unfold ruleOnkeyF
  dsimp only
  split <;> exact .of_fields rfl rfl

/-- The held counter set to a value of its range (10_state.md R26). -/
theorem setHeld_quiet {x : Int} (hx : -1 ≤ x) (p q : Bool) :
    Quiet s { s with onkeyPressed := p, onkeySeconds := x, suppressOnkey := q } :=
  ⟨rfl, fun h => ⟨h.sound, hx, h.line⟩⟩

theorem ruleOnkeyR_quiet : Quiet s (ruleOnkeyR s) := by
  have hreport : Quiet s
      (if s.suppressOnkey then { s with onkeyPressed := false, onkeySeconds := -1, suppressOnkey := false }
       else State.emit { s with onkeyPressed := false, onkeySeconds := -1 } (.inputKey false)) := by
    split
    · exact setHeld_quiet s le_rfl _ _
    · exact (setHeld_quiet s le_rfl false s.suppressOnkey).emit
  unfold ruleOnkeyR
  dsimp only
  split
  · exact hreport
  · exact hreport.trans (maskTick_quiet _)

theorem ruleOnkey1s_quiet : Quiet s (ruleOnkey1s s) :=
  (setHeld_quiet s (by decide : (-1 : Int) ≤ 0) s.onkeyPressed s.suppressOnkey).trans (unmaskTick_quiet _)

theorem ruleBatfull_quiet : Quiet s (ruleBatfull s) := by
  unfold ruleBatfull
  split
  · exact batfullDance_quiet s
  · exact (Quiet.refl s).emit

theorem ruleLowpwr_quiet : Quiet s (ruleLowpwr s) := by
  unfold ruleLowpwr
  split
  · exact ((Quiet.refl s).emit.trans (autoresumeHandshake_quiet _)).trans (nobatStart_quiet _)
  · exact (Quiet.refl s).emit

theorem usbIns_moves : Moves false s (if s.atUsbInsB then usbInsB s else usbInsA s) := by
  split
  · exact (classifyTrigger_moves s).setNext
  · exact Moves.setNext (Quiet.moves (.of_fields rfl rfl))

theorem subregStep_moves {s t : State} {k : Fin 10} (h : subregStep k s = .next t) : Moves false s t :=
  eventStep_moves h (Quiet.refl s).emit.moves

theorem execEvUsbRem_moves {s t : State} (h : execEvUsbRem s = .next t) : Moves (!s.passHas .usbIns) s t :=
  eventStep_moves h (ruleUsbRem_moves s)

/-- No event but EV_USB_REM counts a removal. -/
theorem execEvent_moves {s t : State} {e : Event} (he : e ≠ .usbRem) (h : execEvent e s = .next t) :
    Moves false s t := by
  unfold execEvent at h
  cases e with
  | usbRem => exact absurd rfl he
  | chgIns | chgRem => exact eventStep_moves h (Quiet.moves (.of_fields rfl rfl))
  | usbIns => exact internalOp_moves h (usbIns_moves s)
  | alarm => exact eventStep_moves h (forwardRtc_quiet s _).moves
  | tick => exact eventStep_moves h ((forwardRtc_quiet s _).trans (countHeld_quiet _)).moves
  | onkeyF => exact eventStep_moves h (ruleOnkeyF_quiet s).moves
  | onkeyR => exact eventStep_moves h (ruleOnkeyR_quiet s).moves
  | onkey1s => exact eventStep_moves h (ruleOnkey1s_quiet s).moves
  | batfull => exact eventStep_moves h (ruleBatfull_quiet s).moves
  | chghalt | usblimOn | usblimOff => exact eventStep_moves h (Quiet.refl s).emit.moves
  | thlimOn | thlimOff => exact eventStep_moves h (Quiet.moves (.of_fields rfl rfl))
  | adcRdy =>
    obtain ⟨u, hu, rfl⟩ := Option.map_eq_some_iff.mp (completed_next.mp (internalOp_next.mp h).2.2)
    exact (adcComplete_moves hu).setNext
  | lowbat | lowsys => exact eventStep_moves h (ruleLowpwr_quiet s).moves
  | hightemp | autopwrfail | ledFail | ledOvp => exact eventStep_moves h (Quiet.refl s).emit.moves
  | subregFail k => exact subregStep_moves ((execEvent_subregFail s k).symm.trans h)

end Events

/-! ### The Dispatcher -/

section Dispatcher

variable (s : State)

/-- The end of a pass, or no pass at all. -/
theorem endPass_moves (req : Bool) : Moves false s { s with dispatchReq := req, disp := .idle, pass := none } where
  cfg := rfl
  ring := .inl rfl
  removals := rfl
  control := fun h => ⟨by simp, fun hd => absurd rfl hd, h.notifier, h.unprobed⟩
  steady := fun h => ⟨h.sound, h.held, h.line⟩

/-- A pass starts only past PROBE and with the gate open (42_interrupt_dispatcher.md R201, R202). -/
theorem passEntry_moves : Moves false s (passEntry s) := by
  unfold passEntry
  split
  · rename_i hreq
    split
    · exact (Quiet.refl s).moves
    · rename_i hopen
      have hgate : s.accessAllowed = true := by simpa [State.entryBails] using hopen
      exact { (Quiet.refl s).moves with
        control := fun h => ⟨by simp, fun _ => ⟨hgate, (Bool.and_eq_true_iff.mp hreq).1⟩, h.notifier, h.unprobed⟩
        steady := fun h => ⟨h.sound, h.held, h.line⟩ }
  · exact (Quiet.refl s).moves

theorem shortRead_moves (k : Nat) : Moves false s (shortRead k s) := by
  unfold shortRead
  dsimp only
  split
  · exact (clearCovered_quiet s _ _).andThen (endPass_moves _ _)
  · exact endPass_moves s _

/-- A full read forgets the edge it served (42_interrupt_dispatcher.md R203). -/
theorem fullRead_quiet : Quiet s (fullRead s) := by
  refine .of_settled ?_ fullRead_wf (by rw [fullRead_eq]) fun hseen => ?_
  · rw [fullRead_eq]
    simp only [State.anchor, Option.isSome_map]
    rfl
  · rw [fullRead_eq] at hseen
    cases hseen

theorem passRead_moves : Moves false s (passRead s) := by
  unfold passRead
  split
  · exact shortRead_moves s _
  · exact (fullRead_quiet s).moves

/-- STEP4 leaves the gate open (42_interrupt_dispatcher.md R204). -/
theorem passStep4_moves (block : Block) : Moves false s (passStep4 block s) := by
  unfold passStep4
  refine Moves.setNext ?_
  split
  · exact { (Quiet.refl s).moves with
      control := fun h => ⟨h.pass_iff, fun hd => ⟨rfl, (h.gate hd).2⟩, h.notifier, fun _ => rfl⟩
      steady := fun h => ⟨h.sound, h.held, h.line⟩ }
  · exact (Quiet.refl s).moves

theorem coldplugReports_quiet (usb chg : Bool) :
    Quiet s (coldplugStatus (usb || chg) (coldplugChg chg (coldplugUsb usb s))) := by
  rw [coldplugReports_eq]
  exact .of_fields rfl rfl

theorem coldplug_moves : Moves false s (coldplug s) := by
  have hreports := (maskTick_quiet s).trans (coldplugReports_quiet _ s.maskTick.usbOk s.maskTick.chgOk)
  refine (hreports.andThen (classifyTrigger_moves _)).quiet (.of_fields ?_ rfl)
  simp only [coldplug, State.anchor, Option.isSome_map]
  rfl

theorem passStep5_moves : Moves false s (passStep5 s) := by
  unfold passStep5
  refine Moves.setNext ?_
  split
  · exact (Quiet.refl s).moves
  · exact coldplug_moves s

theorem passExit_moves : Moves false s (passExit s) := (Quiet.refl s).emit.andThen (endPass_moves _ _)

section AtPass

variable {s : State} {p : Pass} (hdisp : s.disp ≠ .idle) (hpass : s.pass = some p)
include hdisp hpass

theorem eventAtHand_event {e : Event} (hnext : p.next = .event e) : s.eventAtHand = some e := by
  unfold State.eventAtHand
  rw [hpass]
  cases hd : s.disp with
  | idle => exact absurd hd hdisp
  | running => simp [hnext]
  | runningResched => simp [hnext]

theorem eventAtHand_ne_usbRem (hnext : ∀ e, p.next ≠ .event e) : s.eventAtHand ≠ some .usbRem := by
  unfold State.eventAtHand
  rw [hpass]
  cases hd : s.disp with
  | idle => exact absurd hd hdisp
  | running => cases hn : p.next <;> simp_all
  | runningResched => cases hn : p.next <;> simp_all

/-- A turn of the Dispatcher counts a removal exactly where its event does. -/
theorem passStep_moves {t : State} (h : passStep p s = .next t) : Moves (countsRemoval s .dispatch) s t := by
  have hother : (∀ e, p.next ≠ .event e) → countsRemoval s .dispatch = false := fun hnext => by
    simp [countsRemoval, eventAtHand_ne_usbRem hdisp hpass hnext]
  unfold passStep at h
  split at h
  · rw [hother (by simp [*])]
    exact Host.Outcome.next.inj h ▸ passRead_moves s
  · rw [hother (by simp [*])]
    exact Host.Outcome.next.inj h ▸ passStep4_moves s _
  · rw [hother (by simp [*])]
    exact Host.Outcome.next.inj h ▸ passStep5_moves s
  · rename_i e hnext
    have hcounts : countsRemoval s .dispatch = (e == .usbRem && !s.passHas .usbIns) := by
      simp [countsRemoval, eventAtHand_event hdisp hpass hnext]
    rw [hcounts]
    by_cases he : e = .usbRem
    · subst he
      exact execEvUsbRem_moves h
    · rw [beq_false_of_ne he]
      exact execEvent_moves he h
  · rw [hother (by simp [*])]
    exact execEvent_moves (e := .usbIns) (by decide) h
  · rw [hother (by simp [*])]
    exact Host.Outcome.next.inj h ▸ passExit_moves s

end AtPass

theorem execDispatch_moves {s t : State} (h : execDispatch s = .next t) : Moves (countsRemoval s .dispatch) s t := by
  have hb := (powered_next.mp h).2
  split at hb
  · rename_i hidle
    rw [show countsRemoval s .dispatch = false by simp [countsRemoval, State.eventAtHand, hidle]]
    exact Host.Outcome.next.inj hb ▸ passEntry_moves s
  · rename_i hpass hdisp
    split at hb
    · exact passStep_moves hdisp hpass hb
    · cases hb
  · cases hb

end Dispatcher

/-! ### The environment -/

/-- The end of a conversion writes two result registers and latches the source of EV_ADC_RDY (40_adc_scheduler.md R146). -/
theorem conversionDone_quiet (s : State) (value : BitVec 10) : Quiet s (conversionDone value s) :=
  (((Quiet.refl s).setNamed 11).setNamed 12).trans
    ((latch_quiet _ (s.cfg.pos .adcRdy).byte.isLt _).trans (setAdcHw_quiet _ .idle))

/-- An edge is seen only on a high line (42_interrupt_dispatcher.md R235). -/
theorem seeEdge_quiet (s : State) (henabled : s.edgeEnabled = true) : Quiet s { s with irqSeen := true } := by
  simp only [State.edgeEnabled, Bool.and_eq_true] at henabled
  obtain ⟨⟨⟨-, hline⟩, -⟩, -⟩ := henabled
  exact .of_settled rfl id rfl fun _ => hline

theorem execEnvSetStatus_quiet (s : State) (reg : StatusReg) (v : Byte) : Quiet s (s.setReg (s.statusRegAt reg) v) := by
  cases reg with
  | pwrstat => exact (Quiet.refl s).setNamed 17
  | batstat => exact (Quiet.refl s).setNamed 18

/-! ### Every operation -/

/-- Every operation but PROBE. -/
theorem exec_moves {i : Instr} {s t : State} (hi : i ≠ .probe) (h : exec i s = .next t) :
    Moves (countsRemoval s i) s t := by
  unfold exec at h
  cases i with
  | probe => exact absurd rfl hi
  | adcAsyncRead chan avg f param =>
    exact gatedCommand_moves h (adcEnqueue_moves s _ (fun u => (Quiet.refl u).ret) fun u => raise_quiet u _ _)
  | adcSyncRead chan avg w =>
    exact gatedCommand_moves h (adcEnqueue_moves s _ (fun u => block_quiet u _ _) fun u => raise_quiet u _ _)
  | batteryVoltage w =>
    exact gatedCommand_moves h (adcEnqueue_moves s _ (fun u => block_quiet u _ _) fun u => raise_quiet u _ _)
  | notifyUsbCurlim ma => exact hostCommand_moves h fun _ => Quiet.moves (.of_fields rfl rfl)
  | readRegisterBlock reg count =>
    exact gatedCommand_moves h (inRange_moves fun _ => onBus_moves (clearCovered_quiet s _ _).ret.moves)
  | writeRegisterBlock reg count data =>
    refine gatedCommand_moves h (inRange_moves fun hrange => ?_)
    split
    · exact (raise_quiet s _ _).moves
    · rename_i hlen
      refine (hostWrite_quiet s _ _ ?_).moves
      simp only [outOfRange, Bool.or_eq_false_iff, decide_eq_false_iff_not] at hrange
      omega
  | setBits reg mask => exact gatedCommand_moves h (onBus_moves (hostModify_quiet s _ _).moves)
  | clearBits reg mask => exact gatedCommand_moves h (onBus_moves (hostModify_quiet s _ _).moves)
  | ready => exact powered_moves h (Quiet.refl s).ret.moves
  | waitUntilReady timeout w =>
    refine powered_moves h (Quiet.moves ?_)
    split <;> exact .of_fields rfl rfl
  | goStandby => exact gatedCommand_moves h (standby_quiet s).ret.moves
  | suspend =>
    refine hostCommand_moves h fun hprobed => ?_
    split
    · exact (raise_quiet s _ _).moves
    · rename_i hfree
      exact setSuspend_moves s.irqDelivery .startingSuspend (fun _ => by tauto) fun _ => hprobed
  | resume =>
    refine hostCommand_moves h fun _ => ?_
    split
    · exact (raise_quiet s _ _).moves
    · rename_i hsuspended
      exact setSuspend_moves_of_closed s.irqDelivery .startingResume
        (by simp [State.accessAllowed, not_not.mp hsuspended])
  | adcEnqueue chan avg target param =>
    exact internalOp_moves h (adcEnqueue_moves s _ (fun u => (Quiet.refl u).ret) fun u => raise_quiet u _ _)
  | adcStart r => exact internalOp_moves h (adcStart_quiet s r).moves
  | adcComplete => exact adcComplete_moves (completed_next.mp (internalOp_next.mp h).2.2)
  | classify sample usbPresent =>
    have hb := (powered_next.mp h).2
    split at hb
    · exact Host.Outcome.next.inj hb ▸ (Quiet.refl s).ret.moves
    · cases hb
  | applyPolicy type => exact internalOp_moves h (applyPolicy_quiet s _).moves
  | setCurrentLimit ma => exact internalOp_moves h (setCurrentLimit_quiet s _).moves
  | chargeEnable on => exact internalOp_moves h (chargeEnable_quiet s _).moves
  | autoresumeHandshake => exact internalOp_moves h (autoresumeHandshake_quiet s).moves
  | classifyTrigger => exact internalOp_moves h (classifyTrigger_moves s)
  | classifyDone snapshot result =>
    have hb := (internalOp_next.mp h).2.2
    split at hb
    · cases hb
    · exact Host.Outcome.next.inj hb ▸ (classifyDone_quiet s _ _).moves
  | curlimTask => exact powered_moves h (guarded_moves fun _ => (curlimRun_quiet s).moves)
  | batfullDance => exact internalOp_moves h (batfullDance_quiet s).moves
  | dispatch => exact execDispatch_moves h
  | nobatStart => exact internalOp_moves h (nobatStart_quiet s).moves
  | nobatPoll => exact powered_moves h (guarded_moves fun _ => nobatCycle_moves s)
  | evChgIns => exact execEvent_moves (e := .chgIns) (by decide) h
  | evChgRem => exact execEvent_moves (e := .chgRem) (by decide) h
  | evUsbIns => exact execEvent_moves (e := .usbIns) (by decide) h
  | evUsbRem => exact execEvUsbRem_moves h
  | evAlarm => exact execEvent_moves (e := .alarm) (by decide) h
  | evTick => exact execEvent_moves (e := .tick) (by decide) h
  | evOnkeyF => exact execEvent_moves (e := .onkeyF) (by decide) h
  | evOnkeyR => exact execEvent_moves (e := .onkeyR) (by decide) h
  | evOnkey1s => exact execEvent_moves (e := .onkey1s) (by decide) h
  | evBatfull => exact execEvent_moves (e := .batfull) (by decide) h
  | evChghalt => exact execEvent_moves (e := .chghalt) (by decide) h
  | evThlimOn => exact execEvent_moves (e := .thlimOn) (by decide) h
  | evThlimOff => exact execEvent_moves (e := .thlimOff) (by decide) h
  | evUsblimOn => exact execEvent_moves (e := .usblimOn) (by decide) h
  | evUsblimOff => exact execEvent_moves (e := .usblimOff) (by decide) h
  | evAdcRdy => exact execEvent_moves (e := .adcRdy) (by decide) h
  | evLowbat => exact execEvent_moves (e := .lowbat) (by decide) h
  | evLowsys => exact execEvent_moves (e := .lowsys) (by decide) h
  | evHightemp => exact execEvent_moves (e := .hightemp) (by decide) h
  | evAutopwrfail => exact execEvent_moves (e := .autopwrfail) (by decide) h
  | evSubregFail0 | evSubregFail1 | evSubregFail2 | evSubregFail3 | evSubregFail4 => exact subregStep_moves h
  | evSubregFail5 | evSubregFail6 | evSubregFail7 | evSubregFail8 | evSubregFail9 => exact subregStep_moves h
  | evLedFail => exact execEvent_moves (e := .ledFail) (by decide) h
  | evLedOvp => exact execEvent_moves (e := .ledOvp) (by decide) h
  | pmuRaise i b => exact powered_moves h (latch_quiet s i.isLt _).moves
  | adcHwDone value => exact powered_moves h (guarded_moves fun _ => (conversionDone_quiet s _).moves)
  | irqEdge =>
    exact powered_moves h (guarded_moves fun henabled =>
      ((seeEdge_quiet s henabled).trans (requestDispatch_quiet _)).moves)
  | envSetStatus reg v => exact powered_moves h (execEnvSetStatus_quiet s reg v).moves
  | envRtcWant b => exact powered_moves h (Quiet.moves (.of_fields rfl rfl))

end Sys2Proof.Machine
end

section
/-! SUPPORT. The state after PROBE, every step, and the statements about the state that follow (10_state.md R24, R34, R42,
R61, 70_reset_and_hazards.md R340). -/

namespace Sys2Proof.Machine

/-! ### PROBE and reset -/

/-- After PROBE nothing is pending. -/
theorem afterProbe_fifoOk {cfg : Config} {regs : Memory} (h : cfg.wf = true) : (State.afterProbe cfg regs).FifoOk := by
  have hdepth := Config.wf_depth h
  refine ⟨List.length_replicate, by show 0 < cfg.depth; omega, by show 0 < cfg.depth; omega, fun k hk => ?_⟩
  have hcount : (State.afterProbe cfg regs).pendingCount = 0 := by
    show (0 + cfg.depth - 0) % cfg.depth = 0
    simp
  have hslot : (State.afterProbe cfg regs).slot k = none := by
    show (List.replicate cfg.depth none).getD k none = none
    simp [List.getD_eq_getElem?_getD, show k < cfg.depth from hk]
  simp [hcount, hslot]

/-- The state of 10_state.md R61 meets the invariant over every legal configuration and all registers. -/
theorem afterProbe_inv {cfg : Config} {regs : Memory} (hcfg : cfg.wf = true) (hregs : Memory.wf regs = true) :
    (State.afterProbe cfg regs).Inv := by
  refine State.inv_iff.mpr ⟨⟨⟨hcfg, hregs⟩, ?_, ?_⟩, afterProbe_fifoOk hcfg, .of_idle rfl rfl rfl rfl⟩
  · show (-1 : Int) ≤ -1
    exact le_rfl
  · intro hseen
    cases hseen

/-- Settles O7: reset is the state after PROBE of the test configuration. -/
theorem resetMeetsInv : Obligations.ResetMeetsInv := afterProbe_inv (by decide) reset_wf

theorem execProbe_unprobed {s : State} (hs : s.standbyIssued = false) (hp : s.probed = false) :
    execProbe s = .next ((probed s).ret none (.value 0)) := by simp [execProbe, powered_eq hs, hp]

/-- Settles O8: the first clause is PROBE from a device not yet probed, the others read the fields of
`State.afterProbe`. -/
theorem resetState : Obligations.ResetState := by
  refine ⟨execProbe_unprobed rfl rfl, rfl, rfl, rfl, rfl, rfl, rfl, rfl, rfl, rfl, rfl, rfl, rfl, rfl, rfl, rfl, rfl, rfl,
    rfl, rfl, rfl, rfl, rfl, ?slots_length, ?slots_empty, rfl, rfl, rfl, rfl, rfl, rfl, fun _ => rfl⟩
  case slots_length => exact List.length_replicate
  case slots_empty => exact fun x hx => List.eq_of_mem_replicate hx

/-! ### The invariant -/

theorem execProbe_inv {s t : State} (hs : s.Inv) (h : execProbe s = .next t) : t.Inv := by
  obtain rfl := Host.Outcome.next.inj (powered_next.mp h).2
  split
  · exact (raise_quiet s none .busy).moves.inv hs
  · obtain ⟨hsteady, -, -⟩ := State.inv_iff.mp hs
    have hfresh : Quiet (State.afterProbe s.cfg s.regs) ((probed s).ret none (.value 0)) := .of_fields rfl rfl
    exact hfresh.moves.inv (afterProbe_inv hsteady.sound.1 hsteady.sound.2)

theorem exec_inv {i : Instr} {s t : State} (hs : s.Inv) (h : exec i s = .next t) : t.Inv := by
  by_cases hi : i = .probe
  · subst hi
    exact execProbe_inv hs h
  · exact (exec_moves hi h).inv hs

theorem perform_inv {f : Fetched} {s t : State} (hs : s.Inv) (h : perform s f = .next t) : t.Inv := by
  cases f with
  | instr i => exact exec_inv hs h
  | illegalCommand => exact Host.Outcome.next.inj h ▸ (raise_quiet s _ _).moves.inv hs
  | undecodable why => cases h
  | coordinator => exact Host.Outcome.next.inj h ▸ (coordinatorFinish_moves s).inv hs
  | wake w => exact Host.Outcome.next.inj h ▸ (wakeCaller_quiet s w).moves.inv hs
  | idle => exact Host.Outcome.next.inj h ▸ hs

/-- Settles O6: the turn lets time pass, which the invariant does not speak of, and what it runs keeps the invariant
(`perform_inv`). -/
theorem stepKeepsInv : Obligations.StepKeepsInv := by
  intro s t hs h
  obtain ⟨f, port, draws, now, -, hperform⟩ := step_performs h
  have hturn : Quiet s { s with port := port, draws := draws, now := now, invoked := none } := .of_fields rfl rfl
  exact perform_inv (hturn.moves.inv hs) hperform

/-! ### The queue -/

/-- ADC_ENQUEUE as a move of the queue: the youngest request where there is room, else nothing. -/
theorem execAdcEnqueue_pending {chan : BitVec 4} {avg : BitVec 2} {target : Target} {param : Nat} {s t : State}
    (hs : s.FifoOk) (h : execAdcEnqueue chan avg target param s = .next t) :
    t.pending =
      if (s.head + 1) % s.cfg.depth = s.tail then s.pending else s.pending ++ [⟨chan, avg, target, param⟩] := by
  obtain rfl := Host.Outcome.next.inj (internalOp_next.mp h).2.2
  split
  · rename_i hfull
    rw [adcEnqueue_full hfull]
    exact State.pending_congr (s := s) rfl
  · rename_i hroom
    rw [adcEnqueue_room hroom, ← pushSlot_pending hs _ hroom]
    exact State.pending_congr (enqueueAccepted_pushes s _).ret.ring

/-- The delivery reports the result before anything else (40_adc_scheduler.md R142). -/
theorem deliver_reports (r : AdcRequest) (v : BitVec 10) (s : State) :
    s.outputs ++ [.adcDone r.target r.param v.toNat] <+: (deliver r v s).outputs := by
  unfold deliver
  dsimp only
  split
  · exact List.prefix_rfl
  · exact List.prefix_rfl
  · exact (classifyDone_keeps (s.emit _) _ _).outputs

/-- A completion takes the oldest request out (40_adc_scheduler.md R142). -/
theorem adcComplete_pending {s t : State} (hs : s.FifoOk) (h : adcComplete s = some t) :
    t.pending = s.pending.tail := by
  rcases adcComplete_cases h with ⟨hempty, rfl⟩ | ⟨r, hne, -, hnext⟩
  · have hnil := (pending_eq_nil_iff hs).mpr (fifoEmpty_iff.mp hempty)
    rw [hnil, List.tail_nil, ← hnil]
    exact State.pending_congr rfl
  · rw [State.pending_congr ((deliver_quiet _ _ _).trans (startNext_quiet hnext)).ring]
    exact popSlot_pending hs (mt fifoEmpty_iff.mpr (by simp [hne]))

/-- A completion reports the result of the oldest request first (40_adc_scheduler.md R142, R147). -/
theorem adcComplete_reports {s t : State} {r : AdcRequest} (hs : s.FifoOk) (hr : s.pending.head? = some r)
    (h : adcComplete s = some t) :
    ∃ more, t.outputs = s.outputs ++ .adcDone r.target r.param (resultIn s).toNat :: more := by
  have hne : s.head ≠ s.tail := fun he => by simp [(pending_eq_nil_iff hs).mpr he] at hr
  rcases adcComplete_cases h with ⟨hempty, -⟩ | ⟨q, -, hq, hnext⟩
  · exact absurd (fifoEmpty_iff.mp hempty) hne
  · obtain rfl : q = r := Option.some.inj (hq.symm.trans ((pending_head? hs hne).symm.trans hr))
    obtain ⟨more, hmore⟩ := (deliver_reports q s.conversionResult (popSlot s)).trans (startNext_keeps hnext).outputs
    exact ⟨more, by rw [← hmore, List.append_assoc]; rfl⟩

/-- Settles O22: each operation is at most one move of the queue (`exec_moves`), and `FifoOk` makes the slots between the
indices the list of the pending requests (`pending_map_some`). -/
theorem fifoIsAQueue : Obligations.FifoIsAQueue := by
  intro s _ hs
  have hfull : s.pending.length + 1 = s.cfg.depth ↔ (s.head + 1) % s.cfg.depth = s.tail := by
    rw [pending_length hs]
    exact pendingCount_full_iff hs
  have hmoves : ∀ (i : Instr) (t : State), i ≠ .probe → exec i s = .next t → t.FifoOk ∧
      (t.pending = s.pending ∨ (∃ r, t.pending = s.pending ++ [r]) ∨ t.pending = s.pending.tail) :=
    fun i t hi h => ⟨(exec_moves hi h).ring.fifoOk hs, (exec_moves hi h).ring.pending hs⟩
  refine ⟨pending_eq_nil_iff hs, pending_length hs, pending_length hs ▸ pendingCount_lt hs, hfull, ?enqueue, ?complete,
    hmoves⟩
  case enqueue =>
    intro chan avg target param t h
    refine ⟨(hmoves _ t (by simp) h).1, ?_⟩
    simpa only [hfull] using execAdcEnqueue_pending hs h
  case complete =>
    intro t h
    have hcomplete : adcComplete s = some t := completed_next.mp (internalOp_next.mp h).2.2
    exact ⟨(hmoves _ t (by simp) h).1, adcComplete_pending hs hcomplete, fun r hr => adcComplete_reports hs hr hcomplete⟩

/-! ### The removal counter -/

theorem Config.countAfter_unbounded {c : Config} (h : c.counterBits = none) (n : Nat) : c.countAfter n = n + 1 := by
  simp [Config.countAfter, h]

theorem Config.countAfter_width {c : Config} {w : Nat} (h : c.counterBits = some w) (n : Nat) :
    c.countAfter n = (n + 1) % 2 ^ w := by simp [Config.countAfter, h]

/-- Settles O19: `exec_moves` says which operations count, `countAfter` how. -/
theorem removalCounter : Obligations.RemovalCounter := by
  intro i s t hi h
  have hremovals := (exec_moves hi h).removals
  refine ⟨fun hbits => ?_, fun w hbits => ?_⟩
  · rw [hremovals, Config.countAfter_unbounded hbits]
    split <;> rfl
  · rw [hremovals, Config.countAfter_width hbits]

/-! ### After the standby command -/

/-- Every meaning runs in the frame of a powered device (10_state.md R34). -/
theorem exec_powered (i : Instr) (s : State) : ∃ r, exec i s = powered s r := by
  cases i <;> exact ⟨_, rfl⟩

theorem powered_off {s : State} (h : s.standbyIssued = true) (r : Result) : powered s r = .fault .poweredDown := by
  simp [powered, h]

/-- Settles O18: the frame of every meaning, and the step, look at the standby flag first. -/
theorem standbyIsTerminal : Obligations.StandbyIsTerminal := by
  refine ⟨fun i s hs => ?_, fun s hc hs => by simp [step, hc, hs]⟩
  obtain ⟨r, hr⟩ := exec_powered i s
  rw [hr, powered_off hs]

end Sys2Proof.Machine
end

section
/-! SUPPORT. The closed access gate (20_memory.md R79, 60_exceptions.md R305): what each kind of operation does behind it,
and that none but a PMU input changes a register. -/

namespace Sys2Proof.Machine

/-! ### The gate -/

/-- In `running` the gate is open, so a task that goes on in `running` only stops behind a closed gate. -/
theorem suspend_ne_running_of_closed {s : State} (hgate : s.accessAllowed = false) : s.suspend ≠ .running := by
  intro hrun
  simp [State.accessAllowed, hrun] at hgate

section Frames

variable {s t u : State} {c : Option Byte} {body : State → State}

theorem powered_sameRegs (h : powered s (.next u) = .next t) (k : u.regs = s.regs) : t.regs = s.regs :=
  Host.Outcome.next.inj (powered_next.mp h).2 ▸ k

theorem hostCommand_sameRegs (h : hostCommand s c body = .next t) (k : (body s).regs = s.regs) : t.regs = s.regs := by
  obtain ⟨-, rfl⟩ := hostCommand_next.mp h
  split
  · exact k
  · exact State.raise_regs s c .access

theorem guarded_sameRegs {g : State → Bool} (k : (body s).regs = s.regs) : (guarded g body s).regs = s.regs := by
  unfold guarded
  split
  · exact k
  · rfl

/-- A gated command answers with the violation, or before PROBE with E_ACCESS. -/
theorem gatedCommand_closed_sameRegs (hgate : s.accessAllowed = false)
    (h : hostCommand s c (throughGate c body) = .next t) : t.regs = s.regs :=
  hostCommand_sameRegs h (by rw [throughGate_closed hgate, State.violation_regs])

/-- A micro-operation or an event does not run behind a closed gate (93_implementation_defined.md U14). -/
theorem internalOp_closed {r : Result} (hgate : s.accessAllowed = false) : internalOp s r ≠ .next t := by
  intro h
  obtain ⟨-, hopen, -⟩ := internalOp_next.mp h
  exact Bool.false_ne_true (hgate.symm.trans hopen)

end Frames

/-! ### The deferred tasks check first (60_exceptions.md R305) -/

section Tasks

variable {s : State} (hgate : s.accessAllowed = false)
include hgate

theorem curlimRun_closed : curlimRun s = { s with curlim := { s.curlim with scheduled := false } } :=
  if_pos (suspend_ne_running_of_closed hgate)

theorem nobatCycle_closed : nobatCycle s = s := if_pos (suspend_ne_running_of_closed hgate)

theorem passEntry_closed : passEntry s = s := by
  simp [passEntry, State.entryBails, hgate]

/-- No pass begins and none goes on. -/
theorem execDispatch_closed {t : State} (h : execDispatch s = .next t) : t = s := by
  have hb := (powered_next.mp h).2
  split at hb
  · exact (Host.Outcome.next.inj hb).symm.trans (passEntry_closed hgate)
  · simp [hgate] at hb
  · cases hb

end Tasks

/-! ### Operations that write no register in any state -/

section NoWrite

variable {s t : State}

theorem requestDispatch_sameRegs (s : State) : s.requestDispatch.regs = s.regs := by
  unfold State.requestDispatch
  split <;> rfl

/-- PROBE keeps the registers (43_suspend_and_tasks.md R274, log 23). -/
theorem execProbe_sameRegs (h : execProbe s = .next t) : t.regs = s.regs := by
  refine powered_sameRegs h ?_
  split <;> rfl

theorem execClassify_sameRegs {sample : Int} {usb : Bool} (h : execClassify sample usb s = .next t) :
    t.regs = s.regs := by
  have hb := (powered_next.mp h).2
  split at hb
  · exact Host.Outcome.next.inj hb ▸ State.ret_regs s _ _
  · cases hb

theorem execWaitUntilReady_sameRegs {timeout : BitVec 16} {w : Byte} (h : execWaitUntilReady timeout w s = .next t) :
    t.regs = s.regs := by
  refine powered_sameRegs h ?_
  split <;> rfl

/-- S1: SUSPEND answers E_BUSY or names the state (43_suspend_and_tasks.md R260). -/
theorem execSuspend_sameRegs (h : execSuspend s = .next t) : t.regs = s.regs := by
  refine hostCommand_sameRegs h ?_
  split <;> rfl

/-- R1: RESUME answers E_BUSY or names the state (43_suspend_and_tasks.md R261). -/
theorem execResume_sameRegs (h : execResume s = .next t) : t.regs = s.regs := by
  refine hostCommand_sameRegs h ?_
  split <;> rfl

theorem execIrqEdge_sameRegs (h : execIrqEdge s = .next t) : t.regs = s.regs :=
  powered_sameRegs h (guarded_sameRegs (requestDispatch_sameRegs _))

end NoWrite

/-! ### Every operation -/

/-- Settles O17: a gated command is refused, a micro-operation and an event do not run, the tasks check the gate first, and
the other operations write no register in any state. -/
theorem gateClosedNoRegisterWrites : Obligations.GateClosedNoRegisterWrites := by
  intro i s t hgate hinput h
  unfold exec at h
  cases i with
  -- gated commands
  | adcAsyncRead | adcSyncRead | batteryVoltage | readRegisterBlock | writeRegisterBlock | setBits | clearBits
  | goStandby => exact gatedCommand_closed_sameRegs hgate h
  -- internal micro-operations
  | adcEnqueue | adcStart | adcComplete | applyPolicy | setCurrentLimit | chargeEnable | autoresumeHandshake
  | classifyTrigger | classifyDone | batfullDance | nobatStart => exact absurd h (internalOp_closed hgate)
  -- events
  | evChgIns | evChgRem | evUsbIns | evUsbRem | evAlarm | evTick | evOnkeyF | evOnkeyR | evOnkey1s | evBatfull
  | evChghalt | evThlimOn | evThlimOff | evUsblimOn | evUsblimOff | evAdcRdy | evLowbat | evLowsys | evHightemp
  | evAutopwrfail | evSubregFail0 | evSubregFail1 | evSubregFail2 | evSubregFail3 | evSubregFail4 | evSubregFail5
  | evSubregFail6 | evSubregFail7 | evSubregFail8 | evSubregFail9 | evLedFail | evLedOvp =>
    exact absurd h (internalOp_closed hgate)
  -- deferred tasks
  | curlimTask => exact powered_sameRegs h (guarded_sameRegs (by rw [curlimRun_closed hgate]))
  | nobatPoll => exact powered_sameRegs h (guarded_sameRegs (by rw [nobatCycle_closed hgate]))
  | dispatch => rw [execDispatch_closed hgate h]
  -- operations that write no register in any state
  | probe => exact execProbe_sameRegs h
  | notifyUsbCurlim => exact hostCommand_sameRegs h rfl
  | ready => exact powered_sameRegs h rfl
  | waitUntilReady => exact execWaitUntilReady_sameRegs h
  | suspend => exact execSuspend_sameRegs h
  | resume => exact execResume_sameRegs h
  | classify => exact execClassify_sameRegs h
  | irqEdge => exact execIrqEdge_sameRegs h
  | envRtcWant => exact powered_sameRegs h rfl
  -- inputs of the PMU
  | pmuRaise | adcHwDone | envSetStatus => cases hinput

end Sys2Proof.Machine
end

section
/-! SUPPORT. The command port (30_encoding.md R101, R112, R118): the fields of a word built from its bytes, and the operation
of each `op`, said once. -/

namespace Sys2Proof.Machine

open Sys2Proof.Laws (op_commandWord)

/-! ### The fields of a command word -/

section Fields

variable (op a b c : Byte)

@[simp] theorem a_commandWord : CommandWord.a (commandWord op a b c) = a := by
  unfold CommandWord.a commandWord
  rw [BitVec.extractLsb'_append_eq_of_le (by decide), BitVec.extractLsb'_append_eq_of_le (by decide),
    BitVec.extractLsb'_append_eq_right]

@[simp] theorem b_commandWord : CommandWord.b (commandWord op a b c) = b := by
  unfold CommandWord.b commandWord
  rw [BitVec.extractLsb'_append_eq_of_le (by decide), BitVec.extractLsb'_append_eq_right]

@[simp] theorem c_commandWord : CommandWord.c (commandWord op a b c) = c := by
  unfold CommandWord.c commandWord
  rw [BitVec.extractLsb'_append_eq_right]

@[simp] theorem chan_commandWord : CommandWord.chan (commandWord op a b c) = a.extractLsb' 0 4 := by
  rw [CommandWord.chan, a_commandWord]

@[simp] theorem avg_commandWord : CommandWord.avg (commandWord op a b c) = b.extractLsb' 0 2 := by
  rw [CommandWord.avg, b_commandWord]

@[simp] theorem imm16_commandWord : CommandWord.imm16 (commandWord op a b c) = a ++ b := by
  rw [CommandWord.imm16, a_commandWord, b_commandWord]

end Fields

/-- A sub-field written into a byte of zeros reads back (30_encoding.md R101). -/
theorem extractLsb'_setWidth_byte {n : Nat} (x : BitVec n) (hn : n ≤ 8) : (x.setWidth 8).extractLsb' 0 n = x := by
  ext k hk
  simp [BitVec.getLsbD_eq_getElem hk]
  omega

/-- A 16-bit immediate is its two bytes (30_encoding.md R118). -/
theorem imm16_bytes (x : BitVec 16) : x.extractLsb' 8 8 ++ x.extractLsb' 0 8 = x := by
  rw [BitVec.extractLsb'_append_extractLsb'_eq_extractLsb' (by decide)]
  exact BitVec.extractLsb'_eq_self

/-! ### The operation of each `op` -/

section Commands

variable (a b c : Byte) (p : BitVec 32) (d : List Byte)

theorem decodeCommand_probe : decodeCommand (commandWord 0x00 a b c) p d = .ok .probe := by
  simp [decodeCommand, op_commandWord]

theorem decodeCommand_adcAsyncRead :
    decodeCommand (commandWord 0x01 a b c) p d = .ok (.adcAsyncRead (a.extractLsb' 0 4) (b.extractLsb' 0 2) c p) := by
  simp [decodeCommand, op_commandWord]

theorem decodeCommand_adcSyncRead :
    decodeCommand (commandWord 0x02 a b c) p d = .ok (.adcSyncRead (a.extractLsb' 0 4) (b.extractLsb' 0 2) c) := by
  simp [decodeCommand, op_commandWord]

theorem decodeCommand_batteryVoltage : decodeCommand (commandWord 0x03 a b c) p d = .ok (.batteryVoltage c) := by
  simp [decodeCommand, op_commandWord]

theorem decodeCommand_notifyUsbCurlim :
    decodeCommand (commandWord 0x04 a b c) p d = .ok (.notifyUsbCurlim (a ++ b)) := by
  simp [decodeCommand, op_commandWord]

theorem decodeCommand_readRegisterBlock :
    decodeCommand (commandWord 0x05 a b c) p d = .ok (.readRegisterBlock a b) := by
  simp [decodeCommand, op_commandWord]

theorem decodeCommand_writeRegisterBlock :
    decodeCommand (commandWord 0x06 a b c) p d = .ok (.writeRegisterBlock a b d) := by
  simp [decodeCommand, op_commandWord]

theorem decodeCommand_setBits : decodeCommand (commandWord 0x07 a b c) p d = .ok (.setBits a b) := by
  simp [decodeCommand, op_commandWord]

theorem decodeCommand_clearBits : decodeCommand (commandWord 0x08 a b c) p d = .ok (.clearBits a b) := by
  simp [decodeCommand, op_commandWord]

theorem decodeCommand_ready : decodeCommand (commandWord 0x09 a b c) p d = .ok .ready := by
  simp [decodeCommand, op_commandWord]

theorem decodeCommand_waitUntilReady :
    decodeCommand (commandWord 0x0A a b c) p d = .ok (.waitUntilReady (a ++ b) c) := by
  simp [decodeCommand, op_commandWord]

theorem decodeCommand_goStandby : decodeCommand (commandWord 0x0B a b c) p d = .ok .goStandby := by
  simp [decodeCommand, op_commandWord]

theorem decodeCommand_suspend : decodeCommand (commandWord 0x0C a b c) p d = .ok .suspend := by
  simp [decodeCommand, op_commandWord]

theorem decodeCommand_resume : decodeCommand (commandWord 0x0D a b c) p d = .ok .resume := by
  simp [decodeCommand, op_commandWord]

end Commands

/-- No operation has an `op` above 0x0D (30_encoding.md R112). -/
theorem decodeCommand_illegal {w : CommandWord} (p : BitVec 32) (d : List Byte) (hop : 0x0D < (CommandWord.op w).toNat) :
    decodeCommand w p d = .error (.illegalOp (CommandWord.op w)) := by
  unfold decodeCommand
  split
  case h_15 => rfl
  all_goals omega

/-- Settles O3, by the equation of each `op`. -/
theorem commandTable : Obligations.CommandTable := fun a b c p d =>
  ⟨decodeCommand_probe a b c p d, decodeCommand_adcAsyncRead a b c p d, decodeCommand_adcSyncRead a b c p d,
    decodeCommand_batteryVoltage a b c p d, decodeCommand_notifyUsbCurlim a b c p d,
    decodeCommand_readRegisterBlock a b c p d, decodeCommand_writeRegisterBlock a b c p d,
    decodeCommand_setBits a b c p d, decodeCommand_clearBits a b c p d, decodeCommand_ready a b c p d,
    decodeCommand_waitUntilReady a b c p d, decodeCommand_goStandby a b c p d, decodeCommand_suspend a b c p d,
    decodeCommand_resume a b c p d⟩

end Sys2Proof.Machine
end

section
/-! SUPPORT. The operands of a label word (30_encoding.md R110, R113; log 11): each reads back from the number it is written
as. -/

namespace Sys2Proof.Machine

@[simp] theorem argBits_toNat {k : Nat} (x : BitVec k) : argBits k (x.toNat : Int) = some x := by
  have hx : (x.toNat : Int) < 2 ^ k := by exact_mod_cast x.isLt
  simp [argBits, hx]

@[simp] theorem argNat_natCast (n : Nat) : argNat (n : Int) = some n := by simp [argNat]

@[simp] theorem argBool_boolArg (b : Bool) : argBool (boolArg b) = some b := by cases b <;> rfl

@[simp] theorem argFin_val {n : Nat} (i : Fin (n + 1)) : argFin n (i.val : Int) = some i := by
  have hi : i.val < n + 1 := i.isLt
  simp [argFin, hi]

@[simp] theorem argType_code (t : ChargerType) : argType (t.code : Int) = some t := by cases t <;> rfl

theorem argSample_of_inRange {r : Int} (h : SampleInRange r) : argSample r = some r := if_pos h

/-- A target is its tag and its id (30_encoding.md R110). -/
theorem Target.args_roundTrip (t : Target) : ∃ tag id, t.args = [tag, id] ∧ argTarget tag id = some t := by
  cases t with
  | sync w => exact ⟨0, w.toNat, rfl, by simp [argTarget]⟩
  | callback f => exact ⟨1, f.toNat, rfl, by simp [argTarget]⟩
  | classify => exact ⟨2, 0, rfl, rfl⟩

theorem AdcRequest.args_length (r : AdcRequest) : r.args.length = 5 := by
  obtain ⟨tag, id, hargs, -⟩ := Target.args_roundTrip r.target
  simp [AdcRequest.args, hargs]

theorem argRequest_args {r : AdcRequest} (h : ParamInRange r.target r.param) :
    argRequest (fun k => r.args.getD k 0) = some r := by
  obtain ⟨tag, id, hargs, htarget⟩ := Target.args_roundTrip r.target
  simp [argRequest, AdcRequest.args, hargs, htarget, h]

/-- No more operands than the rule has, each in range: the operation. -/
theorem operands_some {arity : Nat} {args : List Int} (i : Instr) (h : args.length ≤ arity) :
    operands arity args (some i) = .ok i := by
  simp [operands, Nat.not_lt.mpr h]

/-- The five operands of a request (40_adc_scheduler.md R140). -/
theorem operands_request {r : AdcRequest} (f : AdcRequest → Instr) (h : ParamInRange r.target r.param) :
    operands 5 r.args ((argRequest fun k => r.args.getD k 0).map f) = .ok (f r) := by
  rw [argRequest_args h]
  exact operands_some _ (AdcRequest.args_length r).le

end Sys2Proof.Machine
end

section
/-! SUPPORT. The status block (30_encoding.md R102 to R104): which events a block holds, and the first of them. -/

namespace Sys2Proof.Machine

/-! ### The events and their order -/

theorem Event.mem_order (e : Event) : e ∈ Event.order := by
  cases e with
  | subregFail k => decide +revert
  | _ => decide

theorem Event.order_rank : (Event.order.map fun e => e.rank.val) = List.range 32 := by decide

theorem Event.order_nodup : Event.order.Nodup :=
  List.Nodup.of_map _ (Event.order_rank ▸ List.nodup_range)

theorem Event.rank_inj {e f : Event} (h : e.rank = f.rank) : e = f :=
  List.inj_on_of_nodup_map (Event.order_rank ▸ List.nodup_range) (mem_order e) (mem_order f) (congrArg Fin.val h)

/-! ### Presence -/

theorem Config.blockBit_lt (c : Config) (e : Event) : c.blockBit e < 40 := by
  have hbyte := (c.pos e).byte.isLt
  have hbit := (c.pos e).bit.isLt
  unfold Config.blockBit
  omega

/-- A mask has the one bit of its event. -/
theorem Config.eventMask_getLsbD (c : Config) (e : Event) (k : Nat) :
    (c.eventMask e).getLsbD k = decide (k = c.blockBit e) := by
  have hlt := Config.blockBit_lt c e
  rw [Config.eventMask, ← BitVec.twoPow_eq, BitVec.getLsbD_twoPow]
  simp only [hlt, decide_true, Bool.true_and, eq_comm]

/-- The block of one event holds no other one: the layout is injective (30_encoding.md R103). -/
theorem Config.present_eventMask {c : Config} (hc : c.wf = true) (e f : Event) :
    c.present (c.eventMask e) f = true ↔ f = e := by
  constructor
  · intro h
    have hmask : c.eventMask e &&& c.eventMask f = c.eventMask f := by simpa [Config.present] using h
    have hbit := congrArg (BitVec.getLsbD · (c.blockBit f)) hmask
    simp only [BitVec.getLsbD_and, Config.eventMask_getLsbD, decide_true, Bool.and_true, decide_eq_true_eq] at hbit
    exact Event.rank_inj (Config.blockBit_inj hc hbit)
  · rintro rfl
    simp [Config.present]

/-- The first event present is the first one found in the list. -/
theorem Config.firstPresent_eq_find? (c : Config) (block : Block) (l : List Event) :
    c.firstPresent block l = l.find? (c.present block) := by
  induction l with
  | nil => rfl
  | cons e l ih => simp only [Config.firstPresent, List.find?_cons, ih]; cases c.present block e <;> rfl

theorem Config.firstPresent_eventMask {c : Config} (hc : c.wf = true) (e : Event) :
    c.firstPresent (c.eventMask e) Event.order = some e := by
  rw [Config.firstPresent_eq_find?]
  have hsome : (Event.order.find? (c.present (c.eventMask e))).isSome = true :=
    List.find?_isSome.mpr ⟨e, Event.mem_order e, (Config.present_eventMask hc e e).mpr rfl⟩
  obtain ⟨f, hf⟩ := Option.isSome_iff_exists.mp hsome
  rw [hf, (Config.present_eventMask hc e f).mp (List.find?_some hf)]

theorem decode_eventMask {c : Config} (hc : c.wf = true) (e : Event) :
    decode c (.status (c.eventMask e)) = .ok e.instr := by
  simp only [decode, decodeStatus, Config.firstPresent_eventMask hc e]

end Sys2Proof.Machine
end

section
/-! SUPPORT. The encoding of whole operations (30_encoding.md R101 to R103, R110, R113, R118). -/

namespace Sys2Proof.Machine

/-- Settles O2: the commands by the equation of their `op` on the word's four bytes; the label words and the status blocks
are evaluated. -/
theorem sampleWordsDecode : Obligations.SampleWordsDecode :=
  ⟨decodeCommand_adcAsyncRead 0x07 0x03 0x01 5 [], decodeCommand_adcAsyncRead 0xF7 0xFF 0x01 5 [],
    decodeCommand_notifyUsbCurlim 0x01 0xF4 0x00 0 [], decodeCommand_waitUntilReady 0x03 0xE8 0x04 0 [],
    rfl, rfl, rfl, rfl, rfl⟩

/-- Settles O1: a command by the equation of its `op`, a label word operand by operand, an event by the one bit of its
mask. -/
theorem decodeEncodeRoundTrip : Obligations.DecodeEncodeRoundTrip := by
  intro cfg i hcfg hwf
  cases i with
  -- host commands
  | probe => exact decodeCommand_probe 0 0 0 0 []
  | adcAsyncRead chan avg f param =>
    exact (decodeCommand_adcAsyncRead ..).trans (by simp only [extractLsb'_setWidth_byte, Nat.reduceLeDiff])
  | adcSyncRead chan avg w =>
    exact (decodeCommand_adcSyncRead ..).trans (by simp only [extractLsb'_setWidth_byte, Nat.reduceLeDiff])
  | batteryVoltage => exact decodeCommand_batteryVoltage ..
  | notifyUsbCurlim => exact (decodeCommand_notifyUsbCurlim ..).trans (by rw [imm16_bytes])
  | readRegisterBlock => exact decodeCommand_readRegisterBlock ..
  | writeRegisterBlock => exact decodeCommand_writeRegisterBlock ..
  | setBits => exact decodeCommand_setBits ..
  | clearBits => exact decodeCommand_clearBits ..
  | ready => exact decodeCommand_ready 0 0 0 0 []
  | waitUntilReady => exact (decodeCommand_waitUntilReady ..).trans (by rw [imm16_bytes])
  | goStandby => exact decodeCommand_goStandby 0 0 0 0 []
  | suspend => exact decodeCommand_suspend 0 0 0 0 []
  | resume => exact decodeCommand_resume 0 0 0 0 []
  -- micro-operations, tasks and inputs without operands
  | adcComplete | autoresumeHandshake | classifyTrigger | curlimTask | batfullDance | dispatch | nobatStart | nobatPoll
  | irqEdge => rfl
  -- micro-operations and inputs with operands
  | adcEnqueue chan avg target param =>
    exact operands_request (fun r => .adcEnqueue r.chan r.avg r.target r.param) (of_decide_eq_true hwf)
  | adcStart r => exact operands_request .adcStart (of_decide_eq_true hwf)
  | classify sample usb =>
    have hsample : SampleInRange sample := of_decide_eq_true hwf
    simp [decode, encode, decodeLabel, argSample_of_inRange hsample, operands_some]
  | classifyDone snapshot result =>
    have hsample : SampleInRange result := of_decide_eq_true hwf
    simp [decode, encode, decodeLabel, argSample_of_inRange hsample, operands_some]
  | applyPolicy | setCurrentLimit | chargeEnable | pmuRaise | adcHwDone | envRtcWant =>
    simp [decode, encode, decodeLabel, operands_some]
  | envSetStatus reg v => cases reg <;> simp [decode, encode, decodeLabel, argStatusReg, operands_some]
  -- events
  | evChgIns | evChgRem | evUsbIns | evUsbRem | evAlarm | evTick | evOnkeyF | evOnkeyR | evOnkey1s | evBatfull
  | evChghalt | evThlimOn | evThlimOff | evUsblimOn | evUsblimOff | evAdcRdy | evLowbat | evLowsys | evHightemp
  | evAutopwrfail | evSubregFail0 | evSubregFail1 | evSubregFail2 | evSubregFail3 | evSubregFail4 | evSubregFail5
  | evSubregFail6 | evSubregFail7 | evSubregFail8 | evSubregFail9 | evLedFail | evLedOvp =>
    exact decode_eventMask hcfg _

end Sys2Proof.Machine
end

section
/-! SUPPORT. Illegal and ignored encodings (30_encoding.md R112). -/

namespace Sys2Proof.Machine

theorem fetch_illegal_command {s : State} {w : CommandWord} {p : BitVec 32} {d : List Byte}
    (hop : 0x0D < (CommandWord.op w).toNat) : fetch s (.command w p d) = .illegalCommand := by
  simp only [fetch, decodeCommand_illegal p d hop]

/-- A count of 0 is out of range, wherever the block starts (43_suspend_and_tasks.md R268). -/
theorem inRange_zero (reg : Byte) (body : State → State) (s : State) : inRange reg 0 body s = s.raise none .range := rfl

/-- A gated host command in a state that accepts it is its body. -/
theorem gatedCommand_serving {s : State} {c : Option Byte} {body : State → State} (h : s.Serving) :
    hostCommand s c (throughGate c body) = .next (body s) := by
  obtain ⟨⟨hpowered, hgate⟩, hprobed⟩ := h
  rw [hostCommand_eq hpowered hprobed, throughGate_open hgate]

/-- Settles O4: an `op` above 0x0D decodes to no operation, the ADC commands read only the named sub-fields, and the range
check comes before every access. -/
theorem illegalCommandWords : Obligations.IllegalCommandWords := by
  refine ⟨?illegal, ?ignored, ?zero⟩
  case illegal =>
    intro s t rest w p d hc hs hi hp hr hop
    rw [step_of_turn hc hs hi hp, hr, fetch_illegal_command hop]
    rfl
  case ignored =>
    intro op a a' b b' c p d hop ha hb
    obtain rfl | rfl := hop
    · rw [decodeCommand_adcAsyncRead, decodeCommand_adcAsyncRead, ha, hb]
    · rw [decodeCommand_adcSyncRead, decodeCommand_adcSyncRead, ha, hb]
  case zero =>
    intro s reg d h
    exact ⟨(gatedCommand_serving h).trans (congrArg _ (inRange_zero ..)),
      (gatedCommand_serving h).trans (congrArg _ (inRange_zero ..))⟩

end Sys2Proof.Machine
end

section
/-! SUPPORT. The order of a pass (30_encoding.md R104, 42_interrupt_dispatcher.md R206, R226). -/

namespace Sys2Proof.Machine

/-- EV_LOWSYS in a pass where EV_LOWBAT is present: their rule has run (42_interrupt_dispatcher.md R226). -/
def servedByLowbat (cfg : Config) (block : Block) (e : Event) : Bool := e == .lowsys && cfg.present block .lowbat

section Suffix

variable {e : Event} {l : List Event} (h : e :: l <:+ Event.order)
include h

/-- After each event but EV_LOWBAT a pass goes on with the rest of the processing order. -/
theorem after_eq_of_suffix (he : e ≠ .lowbat) : e.after = l := by
  have hall : ∀ t ∈ Event.order.tails, ∀ e ∈ t.head?, e ≠ .lowbat → e.after = t.tail := by decide
  exact hall _ ((List.mem_tails ..).mpr h) e rfl he

/-- Of what comes after an event, EV_LOWSYS is left out after a present EV_LOWBAT, and nothing else. -/
theorem dropWhile_served_of_suffix (cfg : Config) (block : Block) :
    l.dropWhile (servedByLowbat cfg block) = if e = .lowbat ∧ cfg.present block .lowbat = true then e.after else l := by
  have hall : ∀ b, ∀ t ∈ Event.order.tails, ∀ e ∈ t.head?,
      t.tail.dropWhile (fun f => f == .lowsys && b) = if e = .lowbat ∧ b = true then e.after else t.tail := by decide
  exact hall _ _ ((List.mem_tails ..).mpr h) e rfl

end Suffix

theorem nextMicroStep_present {cfg : Config} {block : Block} {e : Event} (l : List Event)
    (he : cfg.present block e = true) : nextMicroStep cfg block (e :: l) = .event e := by
  rw [nextMicroStep, Config.firstPresent, if_pos he, microStepOf]

theorem nextMicroStep_absent {cfg : Config} {block : Block} {e : Event} (l : List Event)
    (he : ¬cfg.present block e = true) : nextMicroStep cfg block (e :: l) = nextMicroStep cfg block l := by
  rw [nextMicroStep, Config.firstPresent, if_neg he, nextMicroStep]

/-- From any place in the processing order, past an EV_LOWSYS that is served, a pass visits what is present and not served
(42_interrupt_dispatcher.md R206, R226). -/
theorem visits_suffix (cfg : Config) (block : Block) {l : List Event} (h : l <:+ Event.order) :
    Visits cfg block (nextMicroStep cfg block (l.dropWhile (servedByLowbat cfg block)))
      (l.filter fun e => cfg.present block e && !servedByLowbat cfg block e) := by
  induction l with
  | nil => exact .exit
  | cons e l ih =>
    have hrest := ih ((List.suffix_cons e l).trans h)
    have hdrop := dropWhile_served_of_suffix h cfg block
    by_cases hserved : servedByLowbat cfg block e = true
    · rw [List.dropWhile_cons_of_pos hserved, List.filter_cons_of_neg (by simp [hserved])]
      exact hrest
    rw [List.dropWhile_cons_of_neg hserved]
    by_cases he : cfg.present block e = true
    · -- a present event is visited, and the pass goes on with the events after it
      have hafter : e.after = l.dropWhile (servedByLowbat cfg block) := by
        by_cases hlowbat : e = .lowbat
        · rw [hdrop, if_pos ⟨hlowbat, hlowbat ▸ he⟩]
        · rw [hdrop, if_neg fun ⟨hb, _⟩ => hlowbat hb, after_eq_of_suffix h hlowbat]
      rw [nextMicroStep_present l he, List.filter_cons_of_pos (by simp [he, hserved])]
      exact .event e _ (hafter ▸ hrest)
    · -- an absent event is passed over; were it EV_LOWBAT, EV_LOWSYS would not be served
      have hsame : l.dropWhile (servedByLowbat cfg block) = l := by
        rw [hdrop, if_neg fun ⟨hlowbat, hpresent⟩ => he (hlowbat ▸ hpresent)]
      rw [nextMicroStep_absent l he, List.filter_cons_of_neg (by simp [he])]
      rwa [hsame] at hrest

/-- Settles O23: the list of the order is closed data, and a pass is followed from the whole order, at whose head no event
is served. -/
theorem passRunsEventsInOrder : Obligations.PassRunsEventsInOrder :=
  ⟨Event.order_nodup, Event.mem_order, by decide, Event.order_rank,
    fun cfg block => visits_suffix cfg block List.suffix_rfl⟩

end Sys2Proof.Machine
end

section
/-! SUPPORT. The ADC scheduler (40_adc_scheduler.md R140 to R145): the control byte of R105, what an accepted request
leaves alone, which reader a wake-up serves, and that a completion always runs on a FIFO that keeps 10_state.md R42. -/

namespace Sys2Proof.Machine

/-! ### Starting a conversion and accepting a request -/

/-- Under the layout of 30_encoding.md R105 the start bit needs no shift. -/
theorem adcctlByte_default {cfg : Config} (hlayout : cfg.adcctl = ⟨0, 1, 2, 4⟩) (chan : BitVec 4) (avg : BitVec 2) :
    adcctlByte cfg chan avg =
      (chan.setWidth 8 <<< 4) ||| (avg.setWidth 8 <<< 2) ||| ((0#8 <<< 1) ||| 1#8) := by
  rw [adcctlByte, hlayout, BitVec.shiftLeft_zero, BitVec.or_assoc]

theorem enqueueAccepted_accepted {s : State} (h : s.Sound) (r : AdcRequest) : Accepted r s (enqueueAccepted r s) := by
  obtain ⟨haccepted, -⟩ := enqueueAccepted_spec r h.2
  exact haccepted

section Accepting

variable {r : AdcRequest} {s t : State} (h : Accepted r s t)
include h

/-- The answer 0 comes after what was answered before. -/
theorem Accepted.ret_zero_eq : t.ret none (.value 0) = { t with returns := s.returns ++ [⟨none, .value 0⟩] } := by
  obtain ⟨-, -, -, hframe⟩ := h
  have hreturns : t.returns = s.returns := by rw [hframe]
  rw [State.ret, hreturns]

/-- The caller waits behind those that waited before (R144). -/
theorem Accepted.block_eq (w : Byte) (f : WaitFor) :
    block w f t = { t with waiters := s.waiters ++ [⟨w, f, none⟩] } := by
  obtain ⟨-, -, -, hframe⟩ := h
  have hwaiters : t.waiters = s.waiters := by rw [hframe]
  rw [block, hwaiters]

end Accepting

/-- An ADC command with room in the FIFO accepts its request and goes on (R143 to R145). -/
theorem adcCommand_room {s : State} {r : AdcRequest} {c : Option Byte} {ok full : State → State} (hs : s.Serving)
    (hroom : (s.head + 1) % s.cfg.depth ≠ s.tail) :
    hostCommand s c (throughGate c (adcEnqueue r ok full)) = .next (ok (enqueueAccepted r s)) := by
  rw [gatedCommand_serving hs, adcEnqueue_room hroom]

/-! ### Waking a reader -/

/-- The first caller of its id whose wake-up is enabled leaves the list with its value (R144). -/
theorem wakeCaller_first {s : State} {x : Waiter} {pre post : List Waiter} {v : ReturnValue}
    (hpre : ∀ y ∈ pre, y.caller = x.caller → wakeValue s y = none) (hwaiters : s.waiters = pre ++ x :: post)
    (hv : wakeValue s x = some v) :
    wakeCaller x.caller s = State.ret { s with waiters := pre ++ post } (some x.caller) v := by
  have htake : takeWaiter s x.caller s.waiters = some (v, pre ++ post) := by
    rw [hwaiters, takeWaiter_skip hpre, takeWaiter_first hv, Option.map_some]
  simp only [wakeCaller, htake]

/-- Where no caller of that id can wake, nothing happens (log 7). -/
theorem wakeCaller_none {s : State} {w : Byte} (h : ∀ x ∈ s.waiters, x.caller = w → wakeValue s x = none) :
    wakeCaller w s = s := by
  simp only [wakeCaller, takeWaiter_none h]

/-! ### Completing a conversion -/

/-- Where a request is pending, the slot at `tail` holds one (10_state.md R42). -/
theorem exists_oldest {s : State} (h : s.FifoOk) (hne : s.head ≠ s.tail) : ∃ r, s.slot s.tail = some r := by
  rw [← pending_head? h hne, ← Option.isSome_iff_exists, List.isSome_head?]
  exact mt (pending_eq_nil_iff h).mp hne

/-- On a FIFO that keeps R42 the last step of a completion runs. -/
theorem exists_startNext {s : State} (h : s.FifoOk) : ∃ t, startNext s = some t := by
  unfold startNext
  split
  · exact ⟨s, rfl⟩
  · rename_i hne
    obtain ⟨r, hr⟩ := exists_oldest h (mt fifoEmpty_iff.mpr hne)
    exact ⟨_, congrArg (Option.map _) hr⟩

theorem adcComplete_empty {s : State} (h : s.head = s.tail) :
    adcComplete s = some (s.emit (.defect .adcReadyEmptyFifo)) := by
  rw [adcComplete, if_pos (fifoEmpty_iff.mpr h)]

/-- With a request pending: it leaves its slot, its result is delivered, and what remains is restarted (R142). -/
theorem adcComplete_oldest {s : State} {r : AdcRequest} (hne : s.head ≠ s.tail) (hr : s.slot s.tail = some r) :
    adcComplete s = startNext (deliver r (resultIn s) (popSlot s)) := by
  rw [adcComplete, if_neg (mt fifoEmpty_iff.mp hne), hr]
  rfl

theorem deliver_wf {r : AdcRequest} {v : BitVec 10} {s : State} (h : s.Sound) :
    Memory.wf (deliver r v s).regs = true := by
  unfold deliver
  cases r.target with
  | sync w => exact h.2
  | callback f => exact h.2
  | classify =>
    obtain ⟨-, hwf⟩ := classifyDone_spec (s := s.emit _) r.param v.toNat h
    exact hwf

/-- A completion with a request pending delivers it and restarts the converter, on a sound state with a FIFO that keeps
R42. -/
theorem adcComplete_restarts {s : State} (hs : s.Sound) (hfifo : s.FifoOk) (hne : s.head ≠ s.tail) :
    ∃ r t, s.slot s.tail = some r ∧ Restarted (deliver r (resultIn s) (popSlot s)) t ∧ adcComplete s = some t := by
  obtain ⟨r, hr⟩ := exists_oldest hfifo hne
  have hrest : (deliver r (resultIn s) (popSlot s)).FifoOk :=
    State.fifoOk_congr (deliver_quiet _ _ _).ring (popSlot_fifoOk hfifo hne)
  obtain ⟨t, ht⟩ := exists_startNext hrest
  obtain ⟨hrestarted, -⟩ := startNext_spec (deliver_wf (s := popSlot s) hs) ht
  exact ⟨r, t, hr, hrestarted, (adcComplete_oldest hne hr).trans ht⟩

/-! ### The statements

In a namespace of their own: three of them are called as the model's functions are. -/

namespace AdcScheduler

/-- Settles O28: ADC_START is one register write and the converter's own state. -/
theorem adcStart : Obligations.AdcStart := by
  intro r s ⟨_, hregs⟩ hlive
  have hbyte := (adcStart_reg (r := r) hregs).trans (if_pos rfl)
  refine ⟨_, internalOp_eq hlive, hbyte, fun a ha => ?_, rfl, adcStart_eq r s, fun hlayout => ?_⟩
  · exact (adcStart_reg hregs).trans (if_neg (by simpa using ha))
  · exact hbyte.trans (adcctlByte_default hlayout r.chan r.avg)

/-- Settles O25: with room the request is accepted, and the answer is 0. -/
theorem adcEnqueue : Obligations.AdcEnqueue := by
  intro chan avg target param s hs hlive hroom
  have haccepted := enqueueAccepted_accepted hs ⟨chan, avg, target, param⟩
  refine ⟨_, haccepted, (internalOp_eq hlive).trans (congrArg _ ?_)⟩
  rw [adcEnqueue_room hroom, haccepted.ret_zero_eq]

/-- Settles O26: the three commands are one path (`adcCommand_room`), each with its own request and its own end. -/
theorem adcReadCommands : Obligations.AdcReadCommands := by
  intro s hs hserving hroom
  have haccepted := enqueueAccepted_accepted hs
  refine ⟨fun chan avg f param => ?async, fun chan avg w => ?sync, fun w => ?battery⟩
  case async => exact ⟨_, haccepted _, (adcCommand_room hserving hroom).trans (congrArg _ (haccepted _).ret_zero_eq)⟩
  case sync => exact ⟨_, haccepted _, (adcCommand_room hserving hroom).trans (congrArg _ ((haccepted _).block_eq _ _))⟩
  case battery =>
    exact ⟨_, haccepted _, (adcCommand_room hserving hroom).trans (congrArg _ ((haccepted _).block_eq _ _))⟩

/-- Settles O27: the raw result and the scaled one are the `wakeValue` of the two kinds of reader. -/
theorem readerWakesWithResult : Obligations.ReaderWakesWithResult := by
  intro s w pre post r hpre
  refine ⟨fun hraw => ?_, fun hscaled => ?_, fun hnone => wakeCaller_none (hnone ▸ hpre), rfl, rfl⟩
  · exact wakeCaller_first (x := ⟨w, .adcRead, some r⟩) hpre hraw rfl
  · exact wakeCaller_first (x := ⟨w, .battery, some r⟩) hpre hscaled rfl

/-- Settles O29: the delivery case by case of the request's target, then the restart (`adcComplete_restarts`). -/
theorem adcComplete : Obligations.AdcComplete := by
  intro s hs hfifo hlive
  have hexec : ∀ {t}, Machine.adcComplete s = some t → exec .adcComplete s = .next t := fun ht =>
    (internalOp_eq hlive).trans (completed_next.mpr ht)
  refine ⟨fun hempty => hexec (adcComplete_empty hempty), fun hne => ?pending⟩
  case pending =>
    obtain ⟨r, t, hr, hrestarted, ht⟩ := adcComplete_restarts hs hfifo hne
    refine ⟨r, (popSlot s).emit (.adcDone r.target r.param (resultIn s).toNat), deliver r (resultIn s) (popSlot s), t,
      hr, rfl, ?delivered, hrestarted, hexec ht⟩
    obtain ⟨chan, avg, target, param⟩ := r
    cases target with
    | callback f => rfl
    | sync w =>
      refine ⟨rfl, deliverTo_other, fun pre post x hwaiters hpre hcaller hresult hwait => ?_⟩
      exact (congrArg (deliverTo w _) hwaiters).trans (deliverTo_first hpre hcaller hresult hwait)
    | classify =>
      obtain ⟨hpolicy, -⟩ := classifyDone_spec (s := (popSlot s).emit _) param (resultIn s).toNat hs
      exact hpolicy

end AdcScheduler

end Sys2Proof.Machine
end

section
/-! SUPPORT. The charger machine (41_charger_fsm.md R170 to R180): quantization as the largest tier not above a current,
what a second CHARGE_ENABLE leaves, and the notifier's run once it is enabled. -/

namespace Sys2Proof.Machine

/-! ### The tiers (30_encoding.md R107) -/

/-- Quantization gives the largest tier not above the current: a tier is below the result exactly when it is below the
current. -/
theorem Tier.ma_le_quantize_iff (tier : Tier) (x : Nat) : tier.ma ≤ (quantize x).ma ↔ tier.ma ≤ x := by
  unfold quantize
  split_ifs with h1000 h500 h100
  all_goals cases tier <;> simp only [Tier.ma] <;> omega

theorem quantize_ma_le (x : Nat) : (quantize x).ma ≤ x := ((quantize x).ma_le_quantize_iff x).mp le_rfl

theorem quantize_monotone {x y : Nat} (h : x ≤ y) : (quantize x).ma ≤ (quantize y).ma :=
  ((quantize x).ma_le_quantize_iff y).mpr ((quantize_ma_le x).trans h)

/-- A tier's own current quantizes to that tier. -/
theorem quantize_ma (tier : Tier) : quantize tier.ma = tier := by cases tier <;> rfl

/-- The currents that quantization answers are those of the tiers. -/
theorem exists_quantize_ma_iff (v : Nat) : (∃ x, (quantize x).ma = v) ↔ ∃ tier : Tier, tier.ma = v :=
  ⟨fun ⟨x, hx⟩ => ⟨quantize x, hx⟩, fun ⟨tier, htier⟩ => ⟨tier.ma, by rw [quantize_ma, htier]⟩⟩

theorem exists_tier_ma_iff (v : Nat) : (∃ tier : Tier, tier.ma = v) ↔ v = 0 ∨ v = 100 ∨ v = 500 ∨ v = 1000 := by
  constructor
  · rintro ⟨tier, rfl⟩
    cases tier <;> simp [Tier.ma]
  · rintro (rfl | rfl | rfl | rfl)
    · exact ⟨.suspend, rfl⟩
    · exact ⟨.ma100, rfl⟩
    · exact ⟨.ma500, rfl⟩
    · exact ⟨.ma1000, rfl⟩

theorem Config.wf_levels {c : Config} (h : c.wf = true) : c.detectNone ≤ 1023 ∧ c.detect1A ≤ 1023 := by
  simp only [Config.wf, Bool.and_eq_true, decide_eq_true_eq] at h
  obtain ⟨⟨-, hnone⟩, h1A⟩ := h
  exact ⟨hnone, h1A⟩

/-! ### Charge enable (41_charger_fsm.md R174) -/

/-- The bit that a first call set or cleared is as a second call leaves it. -/
theorem enableByte_idem (cfg : Config) (on : Bool) (v : Byte) :
    enableByte cfg on (enableByte cfg on v) = enableByte cfg on v := by
  unfold enableByte
  split_ifs
  · rw [BitVec.or_assoc, BitVec.or_self]
  · rw [BitVec.and_assoc, BitVec.and_self]
  · rfl

section ChargeEnable

variable {s : State} {on : Bool}

theorem chargeEnable_cfg : (chargeEnable on s).cfg = s.cfg := by rw [chargeEnable_eq]

theorem chargeEnable_live (h : s.Live) : (chargeEnable on s).Live := by
  rw [chargeEnable_eq]
  exact h

/-- With the feature disabled nothing happens. -/
theorem chargeEnable_disabled (h : s.cfg.featCharger = false) : chargeEnable on s = s := by simp [chargeEnable, h]

theorem chargeEnable_flags (h : s.cfg.featCharger = true) :
    (chargeEnable on s).flags = { s.flags with chgEnabled := on } := by
  rw [chargeEnable_eq]
  simp only [h, if_true]

theorem chargeEnable_outputs : (chargeEnable on s).outputs = s.outputs ++ enableNotes s on := by rw [chargeEnable_eq]

/-- Flags, outputs and registers are all that CHARGE_ENABLE touches. -/
theorem chargeEnable_frame :
    chargeEnable on s =
      { s with
        flags := (chargeEnable on s).flags
        outputs := (chargeEnable on s).outputs
        regs := (chargeEnable on s).regs } := by
  rw [chargeEnable_eq]

theorem enableByte_enabled {cfg : Config} {v : Byte} (h : cfg.featCharger = true) :
    enableByte cfg on v = if on then v ||| cfg.chgena else v &&& ~~~cfg.chgena := if_pos h

theorem enableNotes_enabled (h : s.cfg.featCharger = true) :
    enableNotes s on =
      if on then if s.flags.usbPresent then [.notify .chargerActive] else []
      else if s.flags.usbPresent = true ∨ s.cfg.chgIdleNotifyNeedsUsb = false then [.notify .chargerIdle] else [] := by
  simp only [enableNotes, h, if_true, Bool.or_eq_true, Bool.not_eq_true']

theorem chargeEnable_twice_sameRegs (h : Memory.wf s.regs = true) :
    SameRegs (chargeEnable on s) (chargeEnable on (chargeEnable on s)) := by
  intro a
  rw [chargeEnable_reg (chargeEnable_wf h), chargeEnable_cfg]
  split
  · rename_i ha
    rw [ha, chargeEnable_reg h, if_pos rfl, enableByte_idem]
  · rfl

theorem chargeEnable_twice_flags : (chargeEnable on (chargeEnable on s)).flags = (chargeEnable on s).flags := by
  cases hfeat : s.cfg.featCharger with
  | false => rw [chargeEnable_disabled hfeat, chargeEnable_disabled hfeat]
  | true =>
    have hfeat' : (chargeEnable on s).cfg.featCharger = true := by rw [chargeEnable_cfg, hfeat]
    rw [chargeEnable_flags hfeat', chargeEnable_flags hfeat]

end ChargeEnable

/-! ### The notifier (41_charger_fsm.md R178, R179) -/

/-- Past PROBE the command records and schedules, whatever the suspend state. -/
theorem execNotifyUsbCurlim_accepted {s : State} (ma : BitVec 16) (hpowered : s.standbyIssued = false)
    (hprobed : s.probed = true) :
    execNotifyUsbCurlim ma s = .next
      { s with
        curlim := { s.curlim with pendingMa := ma.toNat, snapshot := s.usbRemovalCount, scheduled := true }
        returns := s.returns ++ [⟨none, .value 0⟩] } := by
  rw [execNotifyUsbCurlim, hostCommand_eq hpowered hprobed]
  rfl

/-- A stale or suspended request is dropped. -/
theorem curlimRun_dropped {s : State} (h : s.suspend ≠ .running ∨ s.usbRemovalCount ≠ s.curlim.snapshot) :
    curlimRun s = { s with curlim := { s.curlim with scheduled := false } } := by
  unfold curlimRun
  split_ifs with hsuspend hstale
  · rfl
  · rfl
  · exact absurd h (not_or.mpr ⟨hsuspend, hstale⟩)

/-- A current one is recorded, and its limit set. -/
theorem curlimRun_current {s : State} (hsuspend : s.suspend = .running)
    (hsnapshot : s.usbRemovalCount = s.curlim.snapshot) :
    curlimRun s = setCurrentLimit s.curlim.pendingMa
      { s with curlim := { s.curlim with scheduled := false }, lastCurlim := s.curlim.pendingMa } := by
  unfold curlimRun
  rw [if_neg (not_not.mpr hsuspend), if_neg (not_not.mpr hsnapshot)]

/-- The task runs once it is scheduled and idle, past PROBE. -/
theorem execCurlimTask_enabled {s : State} (hpowered : s.standbyIssued = false) (hprobed : s.probed = true)
    (hscheduled : s.curlim.scheduled = true) (hidle : s.curlim.task = .idle) :
    execCurlimTask s = .next (curlimRun s) := by
  rw [execCurlimTask, powered_eq hpowered, guarded, if_pos]
  simp [hprobed, hscheduled, hidle]

/-! ### The statements

In a namespace of their own: several of them are called as the model's functions are. -/

namespace ChargerFsm

/-- Settles O33: SET_CURRENT_LIMIT through its specification. -/
theorem setCurrentLimit : Obligations.SetCurrentLimit := by
  intro ma s hs hlive
  obtain ⟨hlimit, -⟩ := setCurrentLimit_spec ma hs
  exact ⟨_, internalOp_eq hlive, hlimit⟩

/-- Settles O34: the second call meets the byte and the flag that the first one left. -/
theorem chargeEnable : Obligations.ChargeEnable := by
  intro on s ⟨_, hregs⟩ hlive
  refine ⟨_, _, internalOp_eq hlive, internalOp_eq (chargeEnable_live hlive), chargeEnable_disabled, fun hfeat => ?enabled,
    chargeEnable_twice_sameRegs hregs, chargeEnable_twice_flags⟩
  case enabled =>
    refine ⟨?_, fun a ha => ?_, chargeEnable_flags hfeat, ?_, chargeEnable_frame⟩
    · exact ((chargeEnable_reg hregs).trans (if_pos rfl)).trans (enableByte_enabled hfeat)
    · exact (chargeEnable_reg hregs).trans (if_neg (by simpa using ha))
    · exact chargeEnable_outputs.trans (congrArg _ (enableNotes_enabled hfeat))

/-- Settles O36: a trigger is `classifyTrigger_spec`; a completion goes by its snapshot first, then by its sample. -/
theorem classifyTriggerAndDone : Obligations.ClassifyTriggerAndDone := by
  intro s hs hlive
  refine ⟨⟨_, internalOp_eq hlive, (classifyTrigger_spec hs.2).1⟩, fun snapshot result => ?done⟩
  case done =>
    obtain ⟨hdone, -⟩ := classifyDone_spec snapshot result.toNat hs
    have hexec : exec (.classifyDone snapshot result) s =
        if s.usbRemovalCount = snapshot ∧ ¬SampleInRange result then .refused .sampleOutsideDomain
        else .next (classifyDone snapshot result.toNat s) := internalOp_eq hlive
    refine ⟨fun hstale => ?stale, fun hcurrent h0 h1023 => ?current, fun hcurrent hout => ?outside⟩
    case stale =>
      rw [if_neg hstale] at hdone
      rw [hexec, if_neg (fun h => hstale h.1), hdone]
    case current =>
      rw [if_pos hcurrent] at hdone
      exact ⟨_, hexec.trans (if_neg fun h => h.2 ⟨h0, h1023⟩), hdone⟩
    case outside => rw [hexec, if_pos ⟨hcurrent, by omega⟩]

/-- Settles O37: the command records in every suspend state; the task drops (`curlimRun_dropped`) or acts
(`curlimRun_current`). -/
theorem usbCurlimNotifier : Obligations.UsbCurlimNotifier := by
  intro s hs hpowered hprobed
  refine ⟨fun ma => execNotifyUsbCurlim_accepted ma hpowered hprobed, fun hscheduled hidle => ?task⟩
  case task =>
    have hrun : exec .curlimTask s = .next (curlimRun s) := execCurlimTask_enabled hpowered hprobed hscheduled hidle
    refine ⟨fun hdrop => hrun.trans (congrArg _ (curlimRun_dropped hdrop)), fun hsuspend hsnapshot => ?current⟩
    case current =>
      obtain ⟨hlimit, -⟩ := setCurrentLimit_spec s.curlim.pendingMa
        (s := { s with curlim := { s.curlim with scheduled := false }, lastCurlim := s.curlim.pendingMa }) hs
      exact ⟨_, hrun.trans (congrArg _ (curlimRun_current hsuspend hsnapshot)), hlimit⟩

/-- Settles O24: the order clauses rest on `Tier.ma_le_quantize_iff`, idempotence and the four values on
`quantize_ma`. -/
theorem quantizeProperties : Obligations.QuantizeProperties :=
  ⟨fun _ _ => quantize_monotone, fun x => quantize_ma (quantize x), quantize_ma_le,
    fun v => (exists_quantize_ma_iff v).trans (exists_tier_ma_iff v), by decide,
    fun _ hcfg => ⟨rfl, Config.wf_levels hcfg⟩⟩

/-- Settles O31: inside 0..1023 the integer sample and its natural number lie on one side of the midpoint. -/
theorem classify : Obligations.Classify := by
  intro sample usb s hpowered
  have hexec : exec (.classify sample usb) s =
      if SampleInRange sample then .next (s.ret none (.charger (classifySample s.cfg sample.toNat usb)))
      else .refused .sampleOutsideDomain := powered_eq hpowered
  refine ⟨fun h0 h1023 type htype => ?inside, fun hout => hexec.trans (if_neg (by omega))⟩
  case inside =>
    have hside : sample.toNat < (s.cfg.detectNone + s.cfg.detect1A) / 2 ↔
        sample < (s.cfg.detectNone + s.cfg.detect1A) / 2 := by omega
    rw [hexec, if_pos ⟨h0, h1023⟩, classifySample_eq, typeOf, htype]
    simp only [hside]
    rfl

/-- Settles O32: APPLY_POLICY through its specification. -/
theorem applyPolicy : Obligations.ApplyPolicy := by
  intro type s hs hlive
  obtain ⟨hpolicy, -⟩ := applyPolicy_spec type hs
  exact ⟨_, internalOp_eq hlive, hpolicy⟩

/-- Settles O35: the handshake leaves `handshakeByte` in CHGCTL; the dance writes back the tier field it read. -/
theorem handshakeAndDance : Obligations.HandshakeAndDance := by
  intro s ⟨_, hregs⟩ hlive
  refine ⟨⟨_, internalOp_eq hlive, ?_, fun a ha => ?_, autoresumeHandshake_eq s⟩,
    _, internalOp_eq hlive, fun _ => batfullDance_reg hregs, batfullDance_eq s⟩
  · exact (autoresumeHandshake_reg hregs).trans (if_pos rfl)
  · exact (autoresumeHandshake_reg hregs).trans (if_neg (by simpa using ha))

end ChargerFsm

end Sys2Proof.Machine
end

section
/-! SUPPORT. The events (42_interrupt_dispatcher.md R210 to R231): an event is its rule and then the pass goes on
(`eventStep_rule`), and what each rule leaves, said once. -/

namespace Sys2Proof.Machine

/-! ### One event -/

/-- A list of reports, each behind the one before it. -/
theorem emit_all_eq (s : State) (reports : List Output) :
    reports.foldl State.emit s = { s with outputs := s.outputs ++ reports } := by
  induction reports generalizing s with
  | nil => simp
  | cons o reports ih => rw [List.foldl_cons, ih, State.emit_outputs, List.append_assoc, List.singleton_append]; rfl

/-- An event of a live device whose rule leaves configuration and pass alone: what the rule leaves, and the pass goes
on. -/
theorem eventStep_rule {e : Event} {rule : State → State} {s t : State} (hlive : s.Live) (hrule : rule s = t)
    (hcfg : t.cfg = s.cfg) (hpass : t.pass = s.pass) :
    eventStep e rule s = .next { t with pass := passAfter e s } := by
  rw [eventStep_eq hlive, hrule, advance_eq hcfg hpass]

/-- An event that only reports. -/
theorem eventStep_emit {s : State} (hlive : s.Live) (e : Event) (o : Output) :
    eventStep e (fun u => u.emit o) s = .next { s with outputs := s.outputs ++ [o], pass := passAfter e s } :=
  eventStep_rule hlive (t := s.emit o) rfl rfl rfl

/-! ### Reports and warnings -/

/-- Settles O43: each rule is one flag and its reports. -/
theorem chargerEvents : Obligations.ChargerEvents := by
  intro s hlive
  have hreports (e : Event) (rule : State → State) (flags : Flags) (reports : List Output)
      (hrule : rule s = reports.foldl State.emit { s with flags := flags }) :
      eventStep e rule s =
        .next { s with flags := flags, outputs := s.outputs ++ reports, pass := passAfter e s } :=
    eventStep_rule hlive (hrule.trans (emit_all_eq _ _)) rfl rfl
  have hchanged (e : Event) (rule : State → State) (flags : Flags)
      (hrule : rule s = chargerChanged { s with flags := flags }) :=
    hreports e rule flags [.notify .chargerChange] hrule
  exact ⟨hreports .chgIns ruleChgIns _ [_, _, _] rfl, hreports .chgRem ruleChgRem _ [_, _, _] rfl,
    hchanged .chghalt chargerChanged s.flags rfl,
    hchanged .thlimOn (fun u => chargerChanged (u.setChgProt true)) { s.flags with chgProt := true } rfl,
    hchanged .thlimOff (fun u => chargerChanged (u.setChgProt false)) { s.flags with chgProt := false } rfl,
    hchanged .usblimOn chargerChanged s.flags rfl, hchanged .usblimOff chargerChanged s.flags rfl⟩

/-- Settles O49: the thirteen fault bits are one rule, with each its own warning. -/
theorem faultBitEvents : Obligations.FaultBitEvents := by
  intro s hlive
  have hwarn (e : Event) (k : WarnKind) := eventStep_emit hlive e (.warn k)
  simp only [List.forall_mem_cons]
  exact ⟨hwarn .autopwrfail _, hwarn (.subregFail 0) _, hwarn (.subregFail 1) _, hwarn (.subregFail 2) _,
    hwarn (.subregFail 3) _, hwarn (.subregFail 4) _, hwarn (.subregFail 5) _, hwarn (.subregFail 6) _,
    hwarn (.subregFail 7) _, hwarn (.subregFail 8) _, hwarn (.subregFail 9) _, hwarn .ledFail _, hwarn .ledOvp _,
    List.forall_mem_nil _⟩

/-! ### USB (R212, R213) -/

/-- Asking for the classification read leaves the pass where it is: it goes on from there. -/
theorem Triggered.advance_eq {s m u : State} {e : Event} (h : Triggered m u) (hcfg : m.cfg = s.cfg)
    (hpass : m.pass = s.pass) : advance e u = { u with pass := passAfter e s } := by
  have hframe := h.frame
  refine Machine.advance_eq ?_ ?_
  · rw [hframe, ← hcfg]
  · rw [hframe, ← hpass]

/-- Part (a) reports and leaves the pass waiting for part (b). -/
theorem usbInsA_eq (s : State) :
    usbInsA s =
      { s with
        flags := { s.flags with usbPresent := true }
        outputs := s.outputs ++ [.notify .usbInsert, .platform .statusChanged]
        pass := s.pass.map fun p => { p with next := .usbInsB } } :=
  congrArg (State.setNext · fun _ => .usbInsB) (emit_all_eq (s.setUsbPresent true) [_, _])

/-- The state in which a removal that counts asks for its classification. -/
def removalCounted (s : State) : State :=
  { s with
    usbRemovalCount := s.cfg.countAfter s.usbRemovalCount
    flags := { s.flags with usbPresent := false }
    lastCurlim := 0
    outputs := s.outputs ++ [.notify .usbRemove, .platform .statusChanged] }

theorem ruleUsbRem_counts {s : State} (h : s.passHas .usbIns = false) :
    ruleUsbRem s = classifyTrigger (removalCounted s) := by
  rw [ruleUsbRem, if_neg (by simp [h])]
  exact congrArg classifyTrigger (emit_all_eq _ [.notify .usbRemove, .platform .statusChanged])

theorem ruleUsbRem_ignored {s : State} (h : s.passHas .usbIns = true) : ruleUsbRem s = s := if_pos h

/-- Settles O44: the two parts of the insertion by the position of the pass, the removal by the block. -/
theorem usbEvents : Obligations.UsbEvents := by
  intro s ⟨_, hregs⟩ hlive
  have hins : exec .evUsbIns s = .next (if s.atUsbInsB then usbInsB s else usbInsA s) := internalOp_eq hlive
  refine ⟨fun hpart => ?partA, fun hpart => ?partB, fun hboth => ?ignored, fun halone => ?counted⟩
  case partA => rw [hins, if_neg (by simp [hpart]), usbInsA_eq]
  case partB =>
    obtain ⟨htriggered, -⟩ := classifyTrigger_spec hregs
    refine ⟨_, htriggered, ?_⟩
    rw [hins, if_pos hpart, usbInsB, htriggered.advance_eq rfl rfl]
  case ignored => exact eventStep_rule hlive (ruleUsbRem_ignored hboth) rfl rfl
  case counted =>
    obtain ⟨htriggered, -⟩ := classifyTrigger_spec (s := removalCounted s) hregs
    refine ⟨_, htriggered, (eventStep_eq hlive).trans (congrArg _ ?_)⟩
    rw [ruleUsbRem_counts halone, htriggered.advance_eq (s := s) rfl rfl]

/-! ### Alarm and tick (R214, R215) -/

theorem forwardRtc_eq (k : RtcKind) (s : State) :
    forwardRtc k s = { s with outputs := s.outputs ++ if s.cfg.featRtc then [.rtc k] else [] } := by
  unfold forwardRtc
  split
  · rfl
  · rw [List.append_nil]

/-- With the key up, or down but not yet held, no second is counted. -/
theorem countHeld_released {s : State} (h : s.onkeySeconds < 0 ∨ s.onkeyPressed = false) : countHeld s = s := by
  rw [countHeld, if_neg]
  rintro ⟨hheld, hpressed⟩
  rcases h with h | h
  · omega
  · exact Bool.false_ne_true (h.symm.trans hpressed)

/-- One more second of the held key, with the request for a shutdown at the first threshold. -/
def secondCounted (s : State) : State :=
  { s with
    onkeySeconds := s.onkeySeconds + 1
    outputs := s.outputs ++ if s.onkeySeconds + 1 = s.cfg.onkeySigInit then [.shutdownRequest] else [] }

/-- With the key held a second is counted, and the second threshold writes the standby command. -/
theorem countHeld_held {s : State} (hheld : 0 ≤ s.onkeySeconds) (hpressed : s.onkeyPressed = true) :
    countHeld s =
      if s.onkeySeconds + 1 = s.cfg.onkeyShutdown then standby (secondCounted s) else secondCounted s := by
  have hcount : (if s.onkeySeconds + 1 = s.cfg.onkeySigInit then
      State.emit { s with onkeySeconds := s.onkeySeconds + 1 } .shutdownRequest
      else { s with onkeySeconds := s.onkeySeconds + 1 }) = secondCounted s := by
    unfold secondCounted
    split
    · rfl
    · rw [List.append_nil]
  rw [countHeld, if_pos ⟨hheld, hpressed⟩]
  dsimp only
  rw [hcount]
  rfl

/-- The standby command sets its bits in STANDBY and touches no other register (43_suspend_and_tasks.md R267). -/
theorem standby_spec {s : State} (h : Memory.wf s.regs = true) :
    (standby s).reg s.cfg.aStandby.toNat = s.reg s.cfg.aStandby.toNat ||| s.cfg.standbyCmd ∧
      SameRegsBut [s.cfg.aStandby.toNat] s (standby s) :=
  ⟨State.setReg_reg_same h s.cfg.aStandby.isLt, fun _ ha => State.setReg_reg_ne h (by simpa using ha)⟩

/-- Settles O45: the forward, then the count, at or below the second threshold. -/
theorem alarmAndTick : Obligations.AlarmAndTick := by
  intro s ⟨_, hregs⟩ hlive
  have htick {t : State} (hcount : countHeld (forwardRtc .secondTick s) = t) (hcfg : t.cfg = s.cfg)
      (hpass : t.pass = s.pass) : exec .evTick s = .next { t with pass := passAfter .tick s } :=
    eventStep_rule hlive hcount hcfg hpass
  rw [forwardRtc_eq] at htick
  refine ⟨eventStep_rule hlive (forwardRtc_eq .alarm s) rfl rfl,
    fun hup => htick (countHeld_released hup) rfl rfl, fun hheld hpressed => ?held⟩
  case held =>
    have hcount := countHeld_held (s := { s with
      outputs := s.outputs ++ if s.cfg.featRtc then [.rtc .secondTick] else [] }) hheld hpressed
    by_cases hlast : s.onkeySeconds + 1 = s.cfg.onkeyShutdown
    · rw [if_pos hlast] at hcount
      exact ⟨_, htick hcount rfl rfl, rfl, rfl, fun hbelow => absurd hlast hbelow,
        fun _ => ⟨rfl, standby_spec (s := secondCounted _) hregs⟩, rfl⟩
    · rw [if_neg hlast] at hcount
      exact ⟨_, htick hcount rfl rfl, rfl, rfl, fun _ => ⟨hlive.1, rfl⟩, fun hat => absurd hat hlast, rfl⟩

/-! ### The power key (R216 to R218) -/

theorem ruleOnkeyF_eq (s : State) :
    ruleOnkeyF s =
      { s with onkeyPressed := true, outputs := s.outputs ++ if s.suppressOnkey then [] else [.inputKey true] } := by
  unfold ruleOnkeyF
  cases s.suppressOnkey with
  | false => rfl
  | true => simp

/-- The key is up: no second counts, the report or the end of the suppression that hides it. -/
def keyReleased (s : State) : State :=
  { s with
    onkeyPressed := false
    onkeySeconds := -1
    suppressOnkey := false
    outputs := s.outputs ++ if s.suppressOnkey then [] else [.inputKey false] }

/-- After the key-up the tick is masked unless the RTC wants it. -/
theorem ruleOnkeyR_eq (s : State) :
    ruleOnkeyR s = if s.rtcWantsTick then keyReleased s else (keyReleased s).maskTick := by
  have hreleased :
      (if s.suppressOnkey then { s with onkeyPressed := false, onkeySeconds := -1, suppressOnkey := false }
       else State.emit { s with onkeyPressed := false, onkeySeconds := -1 } (.inputKey false)) = keyReleased s := by
    unfold keyReleased State.emit
    cases s.suppressOnkey with
    | false => simp
    | true => simp
  unfold ruleOnkeyR
  dsimp only
  rw [hreleased]

/-- Settles O46: the tick's mask by `maskTick_spec` and `unmaskTick_spec`. -/
theorem onkeyEvents : Obligations.OnkeyEvents := by
  intro s hs hlive
  refine ⟨eventStep_rule hlive (ruleOnkeyF_eq s) rfl rfl, ?release, ?held⟩
  case release =>
    have hrule := ruleOnkeyR_eq s
    by_cases hwants : s.rtcWantsTick = true
    · rw [if_pos hwants] at hrule
      exact ⟨_, eventStep_rule hlive hrule rfl rfl, fun _ => ⟨rfl, rfl⟩,
        fun hnot => absurd (hnot.symm.trans hwants) Bool.false_ne_true, rfl⟩
    · rw [if_neg hwants] at hrule
      obtain ⟨hmask, hothers, hseen, -, -⟩ := State.maskTick_spec (s := keyReleased s) hs
      exact ⟨_, eventStep_rule hlive hrule rfl rfl, fun h => absurd h hwants, fun _ => ⟨hmask, hothers, hseen⟩, rfl⟩
  case held =>
    obtain ⟨hmask, hothers, hseen, -, -⟩ := State.unmaskTick_spec (s := { s with onkeySeconds := 0 }) hs
    exact ⟨_, eventStep_rule hlive (rule := ruleOnkey1s) rfl rfl rfl, hmask, hothers, hseen, rfl⟩

/-! ### Battery and low power (R219, R226, R227) -/

theorem inGrace_iff (s : State) :
    s.inGrace = true ↔ ∃ t₀, s.lastBatInsert = some t₀ ∧ (s.now : Int) - t₀ < s.cfg.batfullGrace := by
  unfold State.inGrace
  cases s.lastBatInsert <;> simp

/-- Settles O47: within the window the dance, which writes back what it read, else the report. -/
theorem batfullEvent : Obligations.BatfullEvent := by
  intro s ⟨_, hregs⟩ hlive
  refine ⟨fun t₀ hinsert hwithin => ?within, fun hpast => ?past⟩
  case within =>
    have hdance : ruleBatfull s = batfullDance s := if_pos ((inGrace_iff s).mpr ⟨t₀, hinsert, hwithin⟩)
    exact ⟨_, eventStep_rule hlive hdance rfl rfl, fun _ => batfullDance_reg hregs, rfl⟩
  case past =>
    have hreport : ruleBatfull s = s.emit (.notify .chargerIdle) := by
      refine if_neg fun hgrace => ?_
      obtain ⟨t₀, hinsert, hwithin⟩ := (inGrace_iff s).mp hgrace
      exact absurd hwithin (not_lt.mpr (hpast t₀ hinsert))
    exact eventStep_rule hlive hreport rfl rfl

theorem nobatStart_eq (s : State) :
    nobatStart s = { s with nobat := if s.nobat.running then s.nobat else ⟨true, s.usbRemovalCount⟩ } := by
  unfold nobatStart
  split
  · rfl
  · rfl

/-- The rule of EV_LOWBAT and EV_LOWSYS with external power. -/
theorem ruleLowpwr_powered {s : State} (h : s.usbOk = true ∨ s.chgOk = true) :
    ruleLowpwr s =
      { s with
        outputs := s.outputs ++ [.notify .chargerIdle]
        nobat := if s.nobat.running then s.nobat else ⟨true, s.usbRemovalCount⟩
        regs := (autoresumeHandshake s).regs } := by
  rw [ruleLowpwr, if_pos (Bool.or_eq_true_iff.mpr h), nobatStart_eq, autoresumeHandshake_eq]
  rfl

/-- The rule of EV_LOWBAT and EV_LOWSYS on battery. -/
theorem ruleLowpwr_unpowered {s : State} (husb : s.usbOk = false) (hchg : s.chgOk = false) :
    ruleLowpwr s = s.emit (.platform (if s.draws.reachable then .lowBattery else .criticalSuspend)) :=
  if_neg (by simp [husb, hchg])

/-- Settles O48: one rule for both events, by the presence of external power. -/
theorem lowPowerEvents : Obligations.LowPowerEvents := by
  intro s ⟨_, hregs⟩ hlive
  refine ⟨fun i e hevent => ?low, eventStep_emit hlive .hightemp _⟩
  case low =>
    have hexec : exec i s = eventStep e ruleLowpwr s := by
      rcases hevent with ⟨rfl, rfl⟩ | ⟨rfl, rfl⟩
      · rfl
      · rfl
    rw [hexec]
    refine ⟨fun hexternal => ?external, fun husb hchg => ?battery⟩
    case external =>
      have hreg {a : Nat} := autoresumeHandshake_reg (b := a) hregs
      exact ⟨_, eventStep_rule hlive (ruleLowpwr_powered hexternal) rfl rfl, hreg.trans (if_pos rfl),
        fun a ha => hreg.trans (if_neg (by simpa using ha)), rfl⟩
    case battery => exact eventStep_rule hlive (ruleLowpwr_unpowered husb hchg) rfl rfl

/-! ### The end of a conversion (R225) -/

theorem setCurrentLimit_pass (ma : Nat) (s : State) : (setCurrentLimit ma s).pass = s.pass := by
  rw [setCurrentLimit, autoresumeHandshake_eq, chargeEnable_eq]
  rfl

theorem applyPolicy_pass (type : ChargerType) (s : State) : (applyPolicy type s).pass = s.pass := by
  cases type with
  | none => exact setCurrentLimit_pass _ _
  | hostLimited => exact setCurrentLimit_pass _ _
  | oneAmp => exact setCurrentLimit_pass _ _

theorem deliver_pass (r : AdcRequest) (v : BitVec 10) (s : State) : (deliver r v s).pass = s.pass := by
  obtain ⟨chan, avg, target, param⟩ := r
  cases target with
  | sync w => rfl
  | callback f => rfl
  | classify =>
    simp only [deliver, classifyDone]
    split
    · exact applyPolicy_pass _ _
    · rfl

theorem startNext_pass {s t : State} (h : startNext s = some t) : t.pass = s.pass := by
  unfold startNext at h
  split at h
  · cases h
    rfl
  · obtain ⟨r, -, rfl⟩ := Option.map_eq_some_iff.mp h
    rfl

/-- A completion does not move the pass. -/
theorem adcComplete_pass {s t : State} (h : adcComplete s = some t) : t.pass = s.pass := by
  unfold adcComplete at h
  split at h
  · cases h
    rfl
  · obtain ⟨r, -, hnext⟩ := Option.bind_eq_some_iff.mp h
    rw [startNext_pass hnext, deliver_pass]
    rfl

/-- On a FIFO that keeps R42 a completion runs. -/
theorem exists_adcComplete {s : State} (h : s.FifoOk) : ∃ t, adcComplete s = some t := by
  by_cases hne : s.head = s.tail
  · exact ⟨_, adcComplete_empty hne⟩
  · obtain ⟨r, hr⟩ := exists_oldest h hne
    have hrest : (deliver r (resultIn s) (popSlot s)).FifoOk :=
      State.fifoOk_congr (deliver_quiet _ _ _).ring (popSlot_fifoOk h hne)
    obtain ⟨t, ht⟩ := exists_startNext hrest
    exact ⟨t, (adcComplete_oldest hne hr).trans ht⟩

/-- Settles O30: the completion exists on such a FIFO, and leaves configuration and pass alone. -/
theorem adcReadyEvent : Obligations.AdcReadyEvent := by
  intro s hfifo hlive
  obtain ⟨t, ht⟩ := exists_adcComplete hfifo
  have hadvance : advance .adcRdy t = { t with pass := passAfter .adcRdy s } :=
    advance_eq (adcComplete_keeps ht).cfg (adcComplete_pass ht)
  refine ⟨t, (internalOp_eq hlive).trans (completed_next.mpr ht), (internalOp_eq hlive).trans ?_⟩
  rw [ht, Option.map_some, hadvance, completed]

end Sys2Proof.Machine
end

section
/-! SUPPORT. The Dispatcher's pass (42_interrupt_dispatcher.md R200 to R208): what each micro-step leaves, and that
the turn at an event is that event's operation. -/

namespace Sys2Proof.Machine

/-! ### One turn -/

section Turn

variable {s : State} {p : Pass}

/-- In a running pass the turn is the pass's next micro-step, named by its position. -/
theorem exec_dispatch_pass {r : Result} (hlive : s.Live) (hdisp : s.disp ≠ .idle) (hpass : s.pass = some p)
    (hstep : passStep p s = r) : exec .dispatch s = r := (execDispatch_pass hlive hdisp hpass).trans hstep

theorem passStep_read (h : p.next = .read) : passStep p s = .next (passRead s) := by simp only [passStep, h]

theorem passStep_step4 (h : p.next = .step4) : passStep p s = .next (passStep4 p.block s) := by simp only [passStep, h]

theorem passStep_step5 (h : p.next = .step5) : passStep p s = .next (passStep5 s) := by simp only [passStep, h]

theorem passStep_event {e : Event} (h : p.next = .event e) : passStep p s = execEvent e s := by
  simp only [passStep, h]

theorem passStep_usbInsB (h : p.next = .usbInsB) : passStep p s = execEvUsbIns s := by simp only [passStep, h]

theorem passStep_exit (h : p.next = .exit) : passStep p s = .next (passExit s) := by simp only [passStep, h]

/-- The next micro-step of a pass whose position is known. -/
theorem setNext_of_pass (hpass : s.pass = some p) (m : Pass → MicroStep) :
    s.setNext m = { s with pass := some { p with next := m p } } := by
  rw [State.setNext, hpass, Option.map_some]

/-- The operation of an event is the event's meaning in the pass (R206). -/
theorem exec_instr (e : Event) (s : State) : exec e.instr s = execEvent e s := by
  cases e with
  | subregFail k => fin_cases k <;> rfl
  | _ => rfl

end Turn

/-! ### ENTRY (R201, R202) -/

section Entry

variable {s : State}

/-- With no pass in progress the turn is ENTRY. -/
theorem execDispatch_entry (hpowered : s.standbyIssued = false) (hidle : s.disp = .idle) :
    exec .dispatch s = .next (passEntry s) := by
  refine (powered_eq hpowered).trans ?_
  rw [hidle]

theorem accessAllowed_iff : s.accessAllowed = true ↔ s.suspend = .running ∨ s.suspend = .completedResume := by
  simp only [State.accessAllowed, Bool.or_eq_true, beq_iff_eq]

/-- With a credit and an open gate the pass starts. -/
theorem passEntry_starts (hprobed : s.probed = true) (hcredit : s.dispatchReq = true)
    (hgate : s.accessAllowed = true) :
    passEntry s = { s with dispatchReq := false, disp := .running, pass := some ⟨0, .read, false⟩ } := by
  simp [passEntry, State.entryBails, hprobed, hcredit, hgate]

/-- Without a credit, or before PROBE, nothing changes. -/
theorem passEntry_disabled (h : s.dispatchReq = false ∨ s.probed = false) : passEntry s = s := by
  rcases h with h | h <;> simp [passEntry, h]

end Entry

/-- Settles O38: the gate is open in two of the five states (`accessAllowed_iff`). -/
theorem dispatchEntry : Obligations.DispatchEntry := by
  intro s hpowered hprobed hidle
  have hentry := execDispatch_entry hpowered hidle
  refine ⟨fun hclosed => ?bails, fun hcredit hopen => ?starts⟩
  case bails =>
    have hgate : s.accessAllowed = false := by
      rw [Bool.eq_false_iff, ne_eq, accessAllowed_iff]
      rcases hclosed with h | h | h <;> simp [h]
    rw [hentry, passEntry_closed hgate]
  case starts => rw [hentry, passEntry_starts hprobed hcredit (accessAllowed_iff.mpr hopen)]

/-! ### READ (R203, 20_memory.md R74) -/

section Read

variable {s : State}

theorem mem_intGroup_iff {a : Nat} : a ∈ (List.range 5).map s.intAt ↔ InBlock s.cfg.aInt.toNat 5 a := by
  simp only [List.mem_map, List.mem_range, State.intAt, InBlock]
  constructor
  · rintro ⟨i, hi, rfl⟩
    omega
  · rintro ⟨hlow, hhigh⟩
    exact ⟨a - s.cfg.aInt.toNat, by omega, by omega⟩

theorem meets_iff {a n g : Nat} : meets a n g = true ↔ a < g + 5 ∧ g < a + n := by
  simp only [meets, Bool.and_eq_true, decide_eq_true_eq]

/-- A read of the first `k` status registers touches the line's registers exactly when it reads any. -/
theorem touchesLine_intGroup {k : Nat} (hs : s.Sound) : s.touchesLine (s.intAt 0) k = true ↔ k ≠ 0 := by
  have hgroups (j : Nat) (hj : j < 5) : s.cfg.aInt.toNat ≠ s.cfg.aIntm.toNat + j :=
    Config.groups_ne hs.1 0 j (by decide) hj
  simp only [State.touchesLine, Bool.or_eq_true, meets_iff, State.intAt]
  constructor
  · rintro (⟨-, hnonempty⟩ | ⟨hhigh, hlow⟩) hk
    · omega
    · exact hgroups (s.cfg.aInt.toNat - s.cfg.aIntm.toNat) (by omega) (by omega)
  · intro hk
    exact .inl (by omega)

/-- A full read leaves the five status registers clear. -/
theorem fullRead_int {i : Nat} (hs : s.Sound) (hi : i < 5) : (fullRead s).reg (s.intAt i) = 0 :=
  (fullRead_reg hs).trans (if_pos ⟨Nat.le_add_right _ _, Nat.add_lt_add_left hi _⟩)

theorem fullRead_irqLine (hs : s.Sound) : (fullRead s).irqLine = false := by
  have hcfg : (fullRead s).cfg = s.cfg := by rw [fullRead_eq]
  refine State.irqLine_clear fun i hi => ?_
  rw [State.intAt, hcfg]
  exact fullRead_int hs hi

theorem fullRead_pass {p : Pass} (hpass : s.pass = some p) :
    (fullRead s).pass = some { p with block := (s.readGroup (s.intAt 0)).block, next := .step4 } := by
  rw [fullRead_eq, hpass]
  rfl

/-- A short read that clears nothing. -/
theorem shortRead_keep {k : Nat} (h : s.cfg.shortReadClears = false) :
    shortRead k s = { s with dispatchReq := true, disp := .idle, pass := none } := by
  rw [shortRead, if_neg (by simp [h])]

/-- The edge already seen is forgotten where the read makes the line fall. -/
theorem clearCovered_irqSeen (a n : Nat) :
    (s.clearCovered a n).irqSeen =
      if s.touchesLine a n then s.irqSeen && (s.clearCovered a n).irqLine else s.irqSeen := by
  conv_lhs => rw [State.clearCovered_eq]

theorem clearCovered_frame (a n : Nat) :
    s.clearCovered a n =
      { s with regs := (s.clearCovered a n).regs, irqSeen := (s.clearCovered a n).irqSeen } := by
  rw [clearCovered_irqSeen]
  exact State.clearCovered_eq s a n

/-- A short read that clears the registers it returned. -/
theorem shortRead_clear {k : Nat} (h : s.cfg.shortReadClears = true) :
    shortRead k s =
      { s with
        dispatchReq := true
        disp := .idle
        pass := none
        regs := (s.clearCovered (s.intAt 0) k).regs
        irqSeen := (s.clearCovered (s.intAt 0) k).irqSeen } := by
  rw [shortRead, if_pos h]
  exact congrArg (fun t : State => { t with dispatchReq := true, disp := .idle, pass := none }) (clearCovered_frame _ _)

/-- Where a short read clears, it settles the line unless it returned no byte at all. -/
theorem shortRead_irqSeen {k : Nat} (hs : s.Sound) (h : s.cfg.shortReadClears = true) :
    (shortRead k s).irqSeen = if k = 0 then s.irqSeen else s.irqSeen && (shortRead k s).irqLine := by
  have hcfg : (shortRead k s).cfg = (s.clearCovered (s.intAt 0) k).cfg := by
    rw [shortRead_clear h, clearCovered_frame]
  have hline : (shortRead k s).irqLine = (s.clearCovered (s.intAt 0) k).irqLine :=
    State.irqLine_of_regs hcfg (by rw [shortRead_clear h])
  have hseen : (shortRead k s).irqSeen = (s.clearCovered (s.intAt 0) k).irqSeen := by rw [shortRead_clear h]
  rw [hseen, hline, clearCovered_irqSeen]
  simp only [touchesLine_intGroup hs, ne_eq, ite_not]

/-- A short read of `k` bytes clears the first `k` status registers. -/
theorem clearCovered_int {k i : Nat} (hs : s.Sound) (hi : i < 5) :
    (s.clearCovered (s.intAt 0) k).reg (s.intAt i) = if i < k then 0 else s.reg (s.intAt i) := by
  have hiff : InBlock (s.intAt 0) k (s.intAt i) ∧ InBlock s.cfg.aInt.toNat 5 (s.intAt i) ↔ i < k := by
    simp only [InBlock, State.intAt]
    omega
  rw [State.clearCovered_reg hs]
  simp only [hiff]

end Read

/-- Settles O39: the outcomes by what the environment draws and by the parameter. -/
theorem dispatchRead : Obligations.DispatchRead := by
  intro s p hs hlive hdisp hpass hnext
  have hexec {t : State} (hread : passRead s = t) : exec .dispatch s = .next t :=
    exec_dispatch_pass hlive hdisp hpass ((passStep_read hnext).trans (congrArg _ hread))
  refine ⟨fun hfull => ?full, fun k hshort => ?short⟩
  case full =>
    have hread : passRead s = fullRead s := by rw [passRead, hfull]
    have heq := fullRead_eq s
    refine ⟨fullRead s, hexec hread, fullRead_pass hpass, fun i hi => fullRead_int hs hi, fun a ha => ?_, by rw [heq],
      fullRead_irqLine hs, ?_⟩
    · exact (fullRead_reg hs).trans (if_neg (mt mem_intGroup_iff.mpr ha))
    · conv_lhs => rw [heq]
      rw [fullRead_pass hpass, hpass, heq]
      rfl
  case short =>
    have hread : passRead s = shortRead k.val s := by rw [passRead, hshort]
    refine ⟨fun hkeep => hexec (hread.trans (shortRead_keep hkeep)), fun hclear => ?clear⟩
    case clear =>
      refine ⟨_, hexec (hread.trans (shortRead_clear hclear)), fun i hi => clearCovered_int hs hi,
        fun a ha => ?_, ?_, rfl⟩
      · refine (State.clearCovered_reg hs).trans (if_neg fun hin => ?_)
        exact ha (mem_intGroup_iff.mpr hin.2)
      · have hseen := shortRead_irqSeen (k := k.val) hs hclear
        rw [shortRead_clear hclear] at hseen
        simpa only [Fin.val_eq_zero_iff] using hseen

/-! ### STEP4 (R204) -/

theorem wakeByKeyOnly_iff {cfg : Config} {block : Block} :
    wakeByKeyOnly cfg block = true ↔
      block ≠ 0 ∧
        block &&& ~~~(cfg.eventMask .onkeyF ||| cfg.eventMask .onkeyR ||| cfg.eventMask .onkey1s) = 0 := by
  simp only [wakeByKeyOnly, onkeyMask, Bool.and_eq_true, bne_iff_ne, beq_iff_eq]

/-- A suppression already asked for stays. -/
theorem suppress_eq (s : State) (block : Block) :
    (s.suppressOnkey || wakeByKeyOnly s.cfg block) =
      if block ≠ 0 ∧
          block &&& ~~~(s.cfg.eventMask .onkeyF ||| s.cfg.eventMask .onkeyR ||| s.cfg.eventMask .onkey1s) = 0
      then true else s.suppressOnkey := by
  simp only [← wakeByKeyOnly_iff]
  cases wakeByKeyOnly s.cfg block <;> simp

/-- Settles O40: one micro-step, by the suspend state. -/
theorem dispatchStep4 : Obligations.DispatchStep4 := by
  intro s p hlive hdisp hpass hnext
  have hexec {t : State} (hstep : passStep4 p.block s = t) : exec .dispatch s = .next t :=
    exec_dispatch_pass hlive hdisp hpass ((passStep_step4 hnext).trans (congrArg _ hstep))
  refine ⟨fun hrunning => hexec ?running, fun hresumed => hexec ?resumed⟩
  case running =>
    rw [passStep4, if_neg (by simp [hrunning])]
    exact setNext_of_pass hpass _
  case resumed =>
    rw [passStep4, if_pos hresumed, suppress_eq]
    refine setNext_of_pass (p := p) ?_ _
    exact hpass

/-! ### STEP5 (R205) -/

/-- The state in which the cold-plug asks for the classification: the tick masked, the sources reported. -/
def coldplugReported (s : State) : State :=
  { s.maskTick with
    flags := { s.flags with usbPresent := s.usbOk || s.flags.usbPresent, chgPresent := s.chgOk || s.flags.chgPresent }
    outputs :=
      s.outputs ++ (if s.usbOk then [.notify .usbInsert] else []) ++
        (if s.chgOk then [.notify .chargerInsert, .inputPower true] else []) ++
        (if s.usbOk || s.chgOk then [.platform .statusChanged] else []) }

/-- Masking the tick does not change what PWRSTAT says. -/
theorem maskTick_pwrstat {s : State} (hs : s.Sound) :
    s.maskTick.usbOk = s.usbOk ∧ s.maskTick.chgOk = s.chgOk := by
  obtain ⟨-, hothers, -⟩ := State.maskTick_spec hs
  have hne : s.cfg.aPwrstat.toNat ≠ s.tickMaskAt := State.not_tickMaskAt hs 17 (by decide) (by decide)
  have hreg : s.maskTick.reg s.cfg.aPwrstat.toNat = s.reg s.cfg.aPwrstat.toNat := hothers _ (by simpa using hne)
  exact ⟨congrArg (allSet · _) hreg, congrArg (allSet · _) hreg⟩

/-- The cold-plug: the reports, the classification read, and the two marks. -/
theorem coldplug_eq {s : State} (hs : s.Sound) :
    coldplug s =
      { classifyTrigger (coldplugReported s) with
        coldplugDone := true
        pass := (classifyTrigger (coldplugReported s)).pass.map fun p => { p with coldPlug := true } } := by
  obtain ⟨husb, hchg⟩ := maskTick_pwrstat hs
  have hreported : coldplugStatus (s.maskTick.usbOk || s.maskTick.chgOk)
      (coldplugChg s.maskTick.chgOk (coldplugUsb s.maskTick.usbOk s.maskTick)) = coldplugReported s := by
    rw [coldplugReports_eq, husb, hchg]
    rfl
  rw [coldplug, hreported]

theorem classifyTrigger_pass {s : State} (h : Memory.wf s.regs = true) : (classifyTrigger s).pass = s.pass := by
  obtain ⟨htriggered, -⟩ := classifyTrigger_spec h
  rw [htriggered.frame]

/-- Settles O41: after the cold-plug only the position moves; before it, `coldplug_eq`. -/
theorem dispatchStep5 : Obligations.DispatchStep5 := by
  intro s p hs hlive hdisp hpass hnext
  have hexec {t : State} (hstep : passStep5 s = t) : exec .dispatch s = .next t :=
    exec_dispatch_pass hlive hdisp hpass ((passStep_step5 hnext).trans (congrArg _ hstep))
  refine ⟨fun hdone => hexec ?done, fun hfirst => ?first⟩
  case done =>
    rw [passStep5, if_pos hdone]
    exact setNext_of_pass hpass _
  case first =>
    obtain ⟨hmask, hothers, hseen, -, hregs⟩ := State.maskTick_spec hs
    obtain ⟨htriggered, -⟩ := classifyTrigger_spec (s := coldplugReported s) hregs
    have hat : (classifyTrigger (coldplugReported s)).pass = some p :=
      (classifyTrigger_pass (s := coldplugReported s) hregs).trans hpass
    refine ⟨coldplugReported s, _, hmask, hothers, rfl, rfl, hseen, rfl, htriggered, hexec ?_⟩
    rw [passStep5, if_neg (by simp [hfirst]), coldplug_eq hs, hat]
    rfl

/-! ### The events and EXIT (R206 to R208) -/

/-- EXIT flushes the reports and ends the pass; a coalesced request becomes a credit. -/
theorem passExit_eq (s : State) :
    passExit s =
      { s with
        outputs := s.outputs ++ [.inputFlush]
        dispatchReq := if s.disp = .runningResched then true else s.dispatchReq
        disp := .idle
        pass := none } := by
  have hcredit : (s.dispatchReq || s.disp == .runningResched) =
      if s.disp = .runningResched then true else s.dispatchReq := by
    by_cases h : s.disp = .runningResched <;> simp [h]
  rw [passExit, hcredit]
  rfl

/-- Settles O42: the turn at an event is `exec_instr`, EXIT is `passExit_eq`. -/
theorem dispatchEventsAndExit : Obligations.DispatchEventsAndExit := by
  intro s p hlive hdisp hpass
  have hexec {r : Result} (hstep : passStep p s = r) : exec .dispatch s = r :=
    exec_dispatch_pass hlive hdisp hpass hstep
  refine ⟨fun e hevent => ?_, fun hpartB => hexec (passStep_usbInsB hpartB), fun hexit => ?_⟩
  · exact hexec ((passStep_event hevent).trans (exec_instr e s).symm)
  · exact hexec ((passStep_exit hexit).trans (congrArg _ (passExit_eq s)))

end Sys2Proof.Machine
end

section
/-! SUPPORT. The environment inputs (40_adc_scheduler.md R146, 42_interrupt_dispatcher.md R233 to R236) and what a
transition with a guard does (log 7). -/

namespace Sys2Proof.Machine

/-! ### Guards (log 7) -/

section Guards

variable {s : State} {g : State → Bool} {body : State → State}

theorem guarded_enabled (h : g s = true) : guarded g body s = body s := if_pos h

theorem guarded_disabled (h : g s = false) : guarded g body s = s := if_neg (by simp [h])

/-- A powered transition whose guard is false changes nothing. -/
theorem powered_guarded_disabled (hpowered : s.standbyIssued = false) (h : g s = false) :
    powered s (.next (guarded g body s)) = .next s := by
  rw [powered_eq hpowered, guarded_disabled h]

theorem edgeEnabled_iff :
    s.edgeEnabled = true ↔ s.irqDelivery = true ∧ s.irqLine = true ∧ s.irqSeen = false ∧ s.probed = true := by
  simp only [State.edgeEnabled, Bool.and_eq_true, Bool.not_eq_true', and_assoc]

end Guards

/-- Settles O21: each of the five guards is false. -/
theorem disabledTransitionsStutter : Obligations.DisabledTransitionsStutter := by
  intro s hpowered
  refine ⟨fun hidle hentry => ?dispatch, fun htask => ?curlimTask, fun hpoll => ?nobatPoll,
    fun hidle value => ?adcHwDone, fun hedge => ?irqEdge⟩
  case dispatch => rw [execDispatch_entry hpowered hidle, passEntry_disabled hentry]
  case curlimTask =>
    refine powered_guarded_disabled hpowered ?_
    rcases htask with h | h | h <;> simp [h]
  case nobatPoll =>
    refine powered_guarded_disabled hpowered ?_
    rcases hpoll with h | h <;> simp [h]
  case adcHwDone =>
    refine powered_guarded_disabled hpowered ?_
    simp only [State.converting, hidle]
  case irqEdge =>
    refine powered_guarded_disabled hpowered (Bool.eq_false_iff.mpr fun henabled => ?_)
    obtain ⟨hdelivery, hline, hseen, hprobed⟩ := edgeEnabled_iff.mp henabled
    simp [hdelivery, hline, hseen, hprobed] at hedge

/-! ### The edge and the RTC's wish (42_interrupt_dispatcher.md R235, R236) -/

/-- A pass asked for: a credit, or a coalesced request where one runs (R208). -/
theorem requestDispatch_eq (s : State) :
    s.requestDispatch =
      { s with
        dispatchReq := if s.disp = .idle then true else s.dispatchReq
        disp := if s.disp = .idle then .idle else .runningResched } := by
  unfold State.requestDispatch
  split
  · rename_i hidle
    rw [hidle]
  · rfl

/-- Settles O60: the enabled edge asks for a pass. -/
theorem edgeAndRtcInputs : Obligations.EdgeAndRtcInputs := by
  intro s hpowered
  refine ⟨fun hdelivery hline hseen hprobed => ?edge, fun b => powered_eq hpowered⟩
  case edge =>
    have henabled : s.edgeEnabled = true := edgeEnabled_iff.mpr ⟨hdelivery, hline, hseen, hprobed⟩
    refine (powered_eq hpowered).trans (congrArg _ ?_)
    exact (guarded_enabled henabled).trans (requestDispatch_eq _)

/-! ### The PMU's inputs (40_adc_scheduler.md R146, 42_interrupt_dispatcher.md R233, R234) -/

section PmuInputs

variable {s : State}

theorem intAt_lt (hs : s.Sound) {i : Nat} (hi : i < 5) : s.intAt i < 256 := by
  have hbound := Config.int_bound hs.1
  unfold State.intAt
  omega

/-- Latching sets one bit of one status register (R234). -/
theorem latch_reg {i b a : Nat} (hs : s.Sound) (hi : i < 5) :
    (s.latch i b).reg a = if a = s.intAt i then s.reg (s.intAt i) ||| 1#8 <<< b else s.reg a := by
  simp only [State.latch, State.setBitsAt_reg hs.2, intAt_lt hs hi, and_true]

/-- A status register takes the byte the environment names (R233). -/
theorem execEnvSetStatus_spec (hs : s.Sound) (hpowered : s.standbyIssued = false) (reg : StatusReg) (v : Byte) :
    ∃ t : State, exec (.envSetStatus reg v) s = .next t ∧ t.reg (s.statusRegAt reg) = v ∧
      SameRegsBut [s.statusRegAt reg] s t ∧ t = { s with regs := t.regs } := by
  have hlt : s.statusRegAt reg < 256 := by
    cases reg with
    | pwrstat => exact s.cfg.aPwrstat.isLt
    | batstat => exact s.cfg.aBatstat.isLt
  exact ⟨_, powered_eq hpowered, State.setReg_reg_same hs.2 hlt,
    fun a ha => State.setReg_reg_ne hs.2 (by simpa using ha), State.setReg_eq _ _ _⟩

/-- The value of a conversion in the two result registers. -/
def resultStored (value : BitVec 10) (s : State) : State :=
  (s.setReg s.cfg.aAdcresHi.toNat (value.extractLsb' 2 8)).setReg s.cfg.aAdcresLo.toNat
    (resultLow s.cfg (s.draws.junk.headD 0) value)

/-- The end of a conversion: the value stored, ADC-ready latched, the converter idle (R146). -/
theorem conversionDone_eq (value : BitVec 10) (s : State) :
    conversionDone value s =
      { s with
        adcHw := .idle
        regs := ((resultStored value s).latch (s.cfg.pos .adcRdy).byte.val (s.cfg.pos .adcRdy).bit.val).regs } := by
  simp only [conversionDone, State.latchEvent, State.latch, State.setBitsAt, resultStored, State.setReg]

theorem conversionDone_frame (value : BitVec 10) (s : State) :
    conversionDone value s = { s with adcHw := .idle, regs := (conversionDone value s).regs } := by
  rw [conversionDone_eq]

theorem resultStored_reg {value : BitVec 10} {a : Nat} (hs : s.Sound) :
    (resultStored value s).reg a =
      if a = s.cfg.aAdcresLo.toNat then resultLow s.cfg (s.draws.junk.headD 0) value
      else if a = s.cfg.aAdcresHi.toNat then value.extractLsb' 2 8
      else s.reg a := by
  rw [resultStored, State.setReg_reg (State.setReg_wf hs.2), State.setReg_reg hs.2]
  simp only [s.cfg.aAdcresLo.isLt, s.cfg.aAdcresHi.isLt, and_true]

/-- The source of ADC-ready lies in neither result register. -/
theorem adcRdy_ne_results (hs : s.Sound) :
    s.intAt (s.cfg.pos .adcRdy).byte.val ≠ s.cfg.aAdcresLo.toNat ∧
      s.intAt (s.cfg.pos .adcRdy).byte.val ≠ s.cfg.aAdcresHi.toNat :=
  have hbyte := (s.cfg.pos .adcRdy).byte.isLt
  ⟨Config.int_ne hs.1 _ 12 hbyte (by decide) (by decide), Config.int_ne hs.1 _ 11 hbyte (by decide) (by decide)⟩

/-- The registers after a conversion (R146). -/
theorem conversionDone_reg {value : BitVec 10} {a : Nat} (hs : s.Sound) :
    (conversionDone value s).reg a =
      if a = s.intAt (s.cfg.pos .adcRdy).byte.val then
        s.reg (s.intAt (s.cfg.pos .adcRdy).byte.val) ||| 1#8 <<< (s.cfg.pos .adcRdy).bit.val
      else if a = s.cfg.aAdcresLo.toNat then resultLow s.cfg (s.draws.junk.headD 0) value
      else if a = s.cfg.aAdcresHi.toNat then value.extractLsb' 2 8
      else s.reg a := by
  obtain ⟨hlo, hhi⟩ := adcRdy_ne_results hs
  have hsound : (resultStored value s).Sound := ⟨hs.1, State.setReg_wf (State.setReg_wf hs.2)⟩
  have hat : (resultStored value s).intAt (s.cfg.pos .adcRdy).byte.val = s.intAt (s.cfg.pos .adcRdy).byte.val := rfl
  have hlatch := latch_reg (b := (s.cfg.pos .adcRdy).bit.val) (a := a) hsound (s.cfg.pos .adcRdy).byte.isLt
  rw [hat, resultStored_reg hs, resultStored_reg hs, if_neg hlo, if_neg hhi] at hlatch
  rw [conversionDone_eq]
  exact hlatch

/-- The two bytes of a value, with any byte in the bits outside the mask, assemble to the value
(30_encoding.md R106). -/
theorem assemble_resultLow (value : BitVec 10) (junk : Byte) :
    ((value.extractLsb' 2 8).setWidth 10 <<< 2) |||
      (((junk &&& ~~~3) ||| (value.extractLsb' 0 2).setWidth 8) &&& 3).setWidth 10 = value := by
  ext i hi
  interval_cases i <;> simp

end PmuInputs

/-- Settles O59: one register each for the latch and the status input, three for the end of a conversion. -/
theorem pmuInputs : Obligations.PmuInputs := by
  intro s hs hpowered
  refine ⟨fun i b => ?latch, execEnvSetStatus_spec hs hpowered .pwrstat, execEnvSetStatus_spec hs hpowered .batstat,
    fun value chan avg hconverting => ?conversion⟩
  case latch =>
    exact ⟨_, powered_eq hpowered, (latch_reg hs i.isLt).trans (if_pos rfl),
      fun a ha => (latch_reg hs i.isLt).trans (if_neg (by simpa using ha)), State.setReg_eq _ _ _⟩
  case conversion =>
    have henabled : s.converting = true := by simp only [State.converting, hconverting]
    obtain ⟨hrdylo, hrdyhi⟩ := adcRdy_ne_results hs
    have hhilo : s.cfg.aAdcresHi.toNat ≠ s.cfg.aAdcresLo.toNat :=
      Config.address_ne hs.1 11 12 (by decide) (by decide) (by decide)
    have hhi : (conversionDone value s).reg s.cfg.aAdcresHi.toNat = value.extractLsb' 2 8 := by
      rw [conversionDone_reg hs, if_neg hrdyhi.symm, if_neg hhilo, if_pos rfl]
    have hlo : (conversionDone value s).reg s.cfg.aAdcresLo.toNat =
        resultLow s.cfg (s.draws.junk.headD 0) value := by
      rw [conversionDone_reg hs, if_neg hrdylo.symm, if_pos rfl]
    refine ⟨_, (powered_eq hpowered).trans (congrArg _ (guarded_enabled henabled)), hhi, ⟨_, hlo⟩,
      (conversionDone_reg hs).trans (if_pos rfl), fun a ha => ?_, conversionDone_frame value s, fun hmask => ?_⟩
    · simp only [List.mem_cons, List.not_mem_nil, or_false, not_or] at ha
      obtain ⟨hahi, halo, hardy⟩ := ha
      rw [conversionDone_reg hs, if_neg hardy, if_neg halo, if_neg hahi]
    · have hcfg : (conversionDone value s).cfg = s.cfg := by rw [conversionDone_eq]
      rw [resultIn, hcfg, hhi, hlo, resultLow, hmask]
      exact assemble_resultLow value _

end Sys2Proof.Machine
end

section
/-! SUPPORT. PROBE, readiness and standby (43_suspend_and_tasks.md R265, R266, R267, R274): when a caller that waits for
readiness wakes up, and what each of the four commands leaves. -/

namespace Sys2Proof.Machine

/-! ### PROBE (R274) -/

theorem execProbe_probed {s : State} (hpowered : s.standbyIssued = false) (hprobed : s.probed = true) :
    execProbe s = .next (s.raise none .busy) := by rw [execProbe, powered_eq hpowered, if_pos hprobed]

/-- Settles O9: PROBE goes by `probed` alone; the reset state's fields are those of `State.afterProbe`. -/
theorem probe : Obligations.Probe := by
  intro s hpowered
  refine ⟨fun hfresh => ?first, fun hprobed => execProbe_probed hpowered hprobed⟩
  case first => exact execProbe_unprobed hpowered hfresh

/-! ### Readiness (R265, R266) -/

/-- Settles O53: past PROBE and with the gate open is what `isReady` says. -/
theorem ready : Obligations.Ready := by
  intro s hpowered
  have hready : s.isReady = (s.probed && (s.suspend == .running || s.suspend == .completedResume)) := rfl
  rw [← hready]
  exact powered_eq hpowered

section Waiting

variable {s : State} {timeout : BitVec 16} {w : Byte}

theorem execWaitUntilReady_ready (hpowered : s.standbyIssued = false) (hready : s.isReady = true) :
    execWaitUntilReady timeout w s = .next (s.ret (some w) (.value 0)) := by
  rw [execWaitUntilReady, powered_eq hpowered, if_pos hready]

theorem execWaitUntilReady_waits (hpowered : s.standbyIssued = false) (hready : s.isReady = false) :
    execWaitUntilReady timeout w s = .next (block w (.ready (s.now + timeout.toNat)) s) := by
  rw [execWaitUntilReady, powered_eq hpowered, if_neg (Bool.eq_false_iff.mp hready), block]

/-- What a caller that waits for readiness gets: readiness before the deadline (R266). -/
theorem wakeValue_waitReady (s : State) (w : Byte) (deadline : Nat) :
    wakeValue s ⟨w, .ready deadline, none⟩ =
      if s.isReady then some (.value 0) else if deadline ≤ s.now then some (.error .timeout) else none := rfl

end Waiting

/-- Settles O54: the call by readiness, the wake-up by `wakeValue_waitReady` for the first caller of its id. -/
theorem waitUntilReady : Obligations.WaitUntilReady := by
  refine ⟨fun timeout w s hpowered => ?call, fun s w deadline pre post hwaiters hpre => ?wake⟩
  case call => exact ⟨execWaitUntilReady_ready hpowered, execWaitUntilReady_waits hpowered⟩
  case wake =>
    have hwakes {v : ReturnValue} (hv : wakeValue s ⟨w, .ready deadline, none⟩ = some v) :
        wakeCaller w s = State.ret { s with waiters := pre ++ post } (some w) v :=
      wakeCaller_first (fun y hy hcaller => absurd hcaller (hpre y hy)) hwaiters hv
    rw [wakeValue_waitReady] at hwakes
    refine ⟨fun hready => hwakes ?ready, fun hready hpast => hwakes ?timeout, fun hready hbefore hpost => ?sleeps⟩
    case ready => rw [if_pos hready]
    case timeout => rw [if_neg (Bool.eq_false_iff.mp hready), if_pos hpast]
    case sleeps =>
      refine wakeCaller_none fun x hx hcaller => ?_
      rw [hwaiters, List.mem_append, List.mem_cons] at hx
      obtain hx | rfl | hx := hx
      · exact absurd hcaller (hpre x hx)
      · rw [wakeValue_waitReady, if_neg (Bool.eq_false_iff.mp hready), if_neg (Nat.not_le.mpr hbefore)]
      · exact absurd hcaller (hpost x hx)

/-! ### Standby (R267) -/

/-- Settles O55: an accepted GO_STANDBY is the standby command (`standby_spec`) and its answer. -/
theorem goStandby : Obligations.GoStandby := by
  intro s ⟨_, hregs⟩ hserving
  obtain ⟨hbits, hothers⟩ := standby_spec hregs
  exact ⟨_, gatedCommand_serving hserving, hbits, hothers, rfl⟩

end Sys2Proof.Machine
end

section
/-! SUPPORT. The suspend/resume coordinator and the no-battery poller (43_suspend_and_tasks.md R260, R261, R263, R264):
the five mask registers as one group, and what each transition leaves. -/

namespace Sys2Proof.Machine

/-! ### The first transitions (R260 S1, R261 R1) -/

section FirstTransitions

variable {s : State} (hpowered : s.standbyIssued = false) (hprobed : s.probed = true)
include hpowered hprobed

theorem execSuspend_starts (hrunning : s.suspend = .running) (hidle : s.disp = .idle) :
    exec .suspend s = .next { s with suspend := .startingSuspend } := by
  rw [exec, execSuspend, hostCommand_eq hpowered hprobed, if_neg (by simp [hrunning, hidle])]

theorem execSuspend_busy (h : s.suspend ≠ .running ∨ s.disp ≠ .idle) :
    exec .suspend s = .next (s.raise none .busy) := by
  rw [exec, execSuspend, hostCommand_eq hpowered hprobed, if_pos h]

theorem execResume_starts (hsuspended : s.suspend = .completedSuspend) :
    exec .resume s = .next { s with suspend := .startingResume } := by
  rw [exec, execResume, hostCommand_eq hpowered hprobed, if_neg (by simp [hsuspended])]

theorem execResume_busy (h : s.suspend ≠ .completedSuspend) : exec .resume s = .next (s.raise none .busy) := by
  rw [exec, execResume, hostCommand_eq hpowered hprobed, if_pos h]

end FirstTransitions

/-! ### The five mask registers (10_state.md R46) -/

section Masks

variable {s : State}

theorem mem_intmGroup_iff {a : Nat} : a ∈ (List.range 5).map s.intmAt ↔ InBlock (s.intmAt 0) 5 a := by
  simp only [List.mem_map, List.mem_range, State.intmAt, InBlock]
  constructor
  · rintro ⟨i, hi, rfl⟩
    omega
  · rintro ⟨hlow, hhigh⟩
    exact ⟨a - s.cfg.aIntm.toNat, by omega, by omega⟩

/-- A mask register after the five were written. -/
theorem writeGroup_mask {v : Bytes5} {i : Nat} (hs : s.Sound) (hi : i < 5) :
    (s.writeGroup (s.intmAt 0) v).reg (s.intmAt i) = byteOf v i := by
  have hbound := Config.intm_bound hs.1
  rw [State.writeGroup_reg hs.2 (by simp only [State.intmAt]; omega), if_pos (by simp only [State.intmAt]; omega)]
  simp only [State.intmAt, Nat.add_zero, Nat.add_sub_cancel_left]

/-- Writing the five mask registers leaves the others. -/
theorem writeGroup_mask_sameRegsBut (v : Bytes5) (hs : s.Sound) :
    SameRegsBut ((List.range 5).map s.intmAt) s (s.writeGroup (s.intmAt 0) v) := by
  intro a ha
  have hbound := Config.intm_bound hs.1
  rw [State.writeGroup_reg hs.2 (by simp only [State.intmAt]; omega), if_neg (mt mem_intmGroup_iff.mpr ha)]

end Masks

/-! ### Registers and line after an update (10_state.md R58) -/

/-- What a register reads as is decided by the registers. -/
theorem State.reg_of_regs {s t : State} (h : t.regs = s.regs) (a : Nat) : t.reg a = s.reg a :=
  congrArg (Memory.read · a) h

/-- Settling the line after an update of registers only (20_memory.md R85). -/
theorem settleLine_of_regs {s t : State} (h : t = { s with regs := t.regs }) :
    t.settleLine = { s with regs := t.regs, irqSeen := s.irqSeen && t.irqLine } := by
  have hupdate : ∃ m, t = { s with regs := m } := ⟨_, h⟩
  obtain ⟨m, rfl⟩ := hupdate
  rfl

/-! ### S2 of SUSPEND (R260) -/

theorem coordinatorFinish_suspend {s : State} (h : s.suspend = .startingSuspend) :
    coordinatorFinish s = suspendFinish s := by rw [coordinatorFinish, h]

/-- The five masks saved, none of them written yet. -/
def masksSaved (s : State) : State := { s with savedMask := s.readGroup (s.intmAt 0) }

/-- The masks saved and then written: exactly the resumers unmasked. -/
def resumersUnmasked (s : State) : State := (masksSaved s).writeGroup (s.intmAt 0) (suspendMasks s.cfg)

/-- S2: masks and line, then delivery, suspend state and answer. -/
theorem suspendFinish_eq (s : State) :
    suspendFinish s =
      { s with
        savedMask := s.readGroup (s.intmAt 0)
        regs := (resumersUnmasked s).regs
        irqSeen := s.irqSeen && (resumersUnmasked s).irqLine
        irqDelivery := false
        suspend := .completedSuspend
        returns := s.returns ++ [⟨none, .value 0⟩] } := by
  have hmasks : (resumersUnmasked s).settleLine =
      { masksSaved s with
        regs := (resumersUnmasked s).regs, irqSeen := s.irqSeen && (resumersUnmasked s).irqLine } :=
    settleLine_of_regs (State.writeGroup_eq _ _ _)
  have hfinish : suspendFinish s =
      State.ret { (resumersUnmasked s).settleLine with irqDelivery := false, suspend := .completedSuspend } none
        (.value 0) := rfl
  rw [hfinish, hmasks]
  rfl

theorem suspendFinish_regs (s : State) : (suspendFinish s).regs = (resumersUnmasked s).regs := by
  rw [suspendFinish_eq]

/-- The line that S2 settles is the line it leaves. -/
theorem suspendFinish_irqLine (s : State) : (suspendFinish s).irqLine = (resumersUnmasked s).irqLine := by
  have hcfg : (suspendFinish s).cfg = (resumersUnmasked s).cfg := by
    rw [suspendFinish_eq, resumersUnmasked, State.writeGroup_eq]
    rfl
  exact State.irqLine_of_regs hcfg (suspendFinish_regs s)

/-- A mask register after S2. -/
theorem suspendFinish_mask {s : State} (hs : s.Sound) {i : Nat} (hi : i < 5) :
    (suspendFinish s).reg (s.intmAt i) = byteOf (suspendMasks s.cfg) i :=
  (State.reg_of_regs (suspendFinish_regs s) _).trans (writeGroup_mask (s := masksSaved s) hs hi)

theorem suspendFinish_sameRegsBut {s : State} (hs : s.Sound) :
    SameRegsBut ((List.range 5).map s.intmAt) s (suspendFinish s) := fun a ha =>
  (State.reg_of_regs (suspendFinish_regs s) a).trans
    (writeGroup_mask_sameRegsBut (s := masksSaved s) (suspendMasks s.cfg) hs a ha)

/-- Settles O56: S1 is the command's own case; after S2 the masks read as the written group (`suspendFinish_mask`). -/
theorem suspendTransitions : Obligations.SuspendTransitions := by
  intro s hs
  refine ⟨fun hpowered hprobed hrunning hidle => execSuspend_starts hpowered hprobed hrunning hidle,
    fun hstarting => ?finish⟩
  case finish =>
    rw [coordinatorFinish_suspend hstarting]
    have hmask {i : Nat} (hi : i < 5) := suspendFinish_mask hs hi
    refine ⟨?saved, hmask (i := 0) (by decide), hmask (i := 1) (by decide), hmask (i := 2) (by decide),
      hmask (i := 3) (by decide), hmask (i := 4) (by decide), suspendFinish_sameRegsBut hs, ?line, ?frame⟩
    case saved => rw [suspendFinish_eq]; rfl
    case line => rw [suspendFinish_irqLine, suspendFinish_eq]
    case frame => rw [suspendFinish_eq]

/-! ### R2 of RESUME (R261) -/

theorem coordinatorFinish_resume {s : State} (h : s.suspend = .startingResume) :
    coordinatorFinish s = resumeFinish s := by rw [coordinatorFinish, h]

/-- The saved masks written back, the line settled. -/
def masksRestored (s : State) : State := (s.writeGroup (s.intmAt 0) s.savedMask).settleLine

theorem masksRestored_eq (s : State) :
    masksRestored s =
      { s with
        regs := (s.writeGroup (s.intmAt 0) s.savedMask).regs
        irqSeen := s.irqSeen && (s.writeGroup (s.intmAt 0) s.savedMask).irqLine } :=
  settleLine_of_regs (State.writeGroup_eq _ _ _)

theorem masksRestored_cfg (s : State) : (masksRestored s).cfg = s.cfg := by rw [masksRestored_eq]

theorem masksRestored_regs (s : State) : (masksRestored s).regs = (s.writeGroup (s.intmAt 0) s.savedMask).regs := by
  rw [masksRestored_eq]

theorem masksRestored_sound {s : State} (hs : s.Sound) : (masksRestored s).Sound := by
  rw [State.Sound, masksRestored_cfg, masksRestored_regs]
  exact ⟨hs.1, State.writeGroup_wf hs.2⟩

theorem masksRestored_irqSeen (s : State) :
    (masksRestored s).irqSeen = (s.irqSeen && (masksRestored s).irqLine) := by
  have hcfg : (masksRestored s).cfg = (s.writeGroup (s.intmAt 0) s.savedMask).cfg := by
    rw [masksRestored_cfg, State.writeGroup_eq]
  rw [State.irqLine_of_regs hcfg (masksRestored_regs s), masksRestored_eq]

theorem masksRestored_tickMaskAt (s : State) :
    (masksRestored s).tickMaskAt = s.intmAt (s.cfg.pos .tick).byte.val := by
  rw [State.tickMaskAt, State.intmAt, masksRestored_cfg]
  rfl

/-- The restored masks with the tick's bit set in its own. -/
theorem masksRestored_maskTick_mask {s : State} (hs : s.Sound) {i : Nat} (hi : i < 5) :
    (masksRestored s).maskTick.reg (s.intmAt i) =
      byteOf s.savedMask i ||| if i = (s.cfg.pos .tick).byte.val then s.tickBit else 0 := by
  obtain ⟨hmask, hothers, -⟩ := State.maskTick_spec (masksRestored_sound hs)
  have hrestored : (masksRestored s).reg (s.intmAt i) = byteOf s.savedMask i :=
    (State.reg_of_regs (masksRestored_regs s) _).trans (writeGroup_mask hs hi)
  have hbit : (masksRestored s).tickBit = s.tickBit := by rw [State.tickBit, masksRestored_cfg]; rfl
  rw [masksRestored_tickMaskAt] at hmask hothers
  by_cases htick : i = (s.cfg.pos .tick).byte.val
  · rw [if_pos htick, ← hrestored, htick, hmask, hbit]
  · have hne : s.intmAt i ≠ s.intmAt (s.cfg.pos .tick).byte.val := fun h => htick (Nat.add_left_cancel h)
    rw [if_neg htick, hothers _ (mt List.mem_singleton.mp hne), hrestored]
    exact BitVec.or_zero.symm

theorem masksRestored_maskTick_sameRegsBut {s : State} (hs : s.Sound) :
    SameRegsBut ((List.range 5).map s.intmAt) s (masksRestored s).maskTick := by
  intro a ha
  obtain ⟨-, hothers, -⟩ := State.maskTick_spec (masksRestored_sound hs)
  have hne : a ∉ [(masksRestored s).tickMaskAt] := fun hmem => by
    rw [List.mem_singleton.mp hmem, masksRestored_tickMaskAt] at ha
    exact ha (List.mem_map_of_mem (List.mem_range.mpr (s.cfg.pos .tick).byte.isLt))
  rw [hothers a hne, State.reg_of_regs (masksRestored_regs s)]
  exact writeGroup_mask_sameRegsBut _ hs a ha

/-- Masking one source more never raises the line. -/
theorem maskTick_irqLine_le {s : State} (hs : s.Sound) (h : s.maskTick.irqLine = true) : s.irqLine = true := by
  obtain ⟨hmask, hothers, -⟩ := State.maskTick_spec hs
  obtain ⟨i, hi, hasserts⟩ := State.irqLine_iff.mp h
  refine State.irqLine_iff.mpr ⟨i, hi, ?_⟩
  have hint : s.maskTick.reg (s.intAt i) = s.reg (s.intAt i) :=
    hothers _ (mt List.mem_singleton.mp (Config.groups_ne hs.1 i _ hi (s.cfg.pos .tick).byte.isLt))
  have hne : s.maskTick.reg (s.intAt i) &&& ~~~s.maskTick.reg (s.intmAt i) ≠ 0 := bne_iff_ne.mp hasserts
  refine bne_iff_ne.mpr fun hzero => hne ?_
  rw [hint]
  by_cases hat : s.intmAt i = s.tickMaskAt
  · rw [hat] at hzero ⊢
    rw [hmask, BitVec.not_or, ← BitVec.and_assoc, hzero]
    exact BitVec.zero_and
  · rw [hothers _ (by simpa using hat), hzero]

/-- R2 from an idle Dispatcher: masks and line, then delivery, suspend state, the credit of a pass and the answer. -/
theorem resumeFinish_eq {s : State} (hidle : s.disp = .idle) :
    resumeFinish s =
      { s with
        regs := (masksRestored s).maskTick.regs
        irqSeen := (masksRestored s).maskTick.irqSeen
        irqDelivery := true
        suspend := .completedResume
        dispatchReq := true
        returns := s.returns ++ [⟨none, .value 0⟩] } := by
  have hrestored : ∃ m q, masksRestored s = { s with regs := m, irqSeen := q } := ⟨_, _, masksRestored_eq s⟩
  have hfinish : resumeFinish s =
      (State.requestDispatch
        { (masksRestored s).maskTick with irqDelivery := true, suspend := .completedResume }).ret none (.value 0) := rfl
  obtain ⟨m, q, hmq⟩ := hrestored
  rw [hfinish, hmq]
  exact congrArg (State.ret · none (.value 0)) (if_pos hidle)

theorem resumeFinish_regs {s : State} (hidle : s.disp = .idle) :
    (resumeFinish s).regs = (masksRestored s).maskTick.regs := by rw [resumeFinish_eq hidle]

/-- The line is settled twice, and masking the tick only lowers it: the second time decides. -/
theorem resumeFinish_irqSeen {s : State} (hs : s.Sound) (hidle : s.disp = .idle) :
    (resumeFinish s).irqSeen = (s.irqSeen && (resumeFinish s).irqLine) := by
  obtain ⟨-, -, hseen, hframe, -⟩ := State.maskTick_spec (masksRestored_sound hs)
  have hcfg : (resumeFinish s).cfg = (masksRestored s).maskTick.cfg := by
    rw [resumeFinish_eq hidle, hframe, masksRestored_cfg]
  have hline : (resumeFinish s).irqLine = (masksRestored s).maskTick.irqLine :=
    State.irqLine_of_regs hcfg (resumeFinish_regs hidle)
  have habsorb : ((masksRestored s).irqLine && (masksRestored s).maskTick.irqLine) =
      (masksRestored s).maskTick.irqLine := by
    rw [Bool.and_eq_right_iff_imp]
    exact maskTick_irqLine_le (masksRestored_sound hs)
  calc (resumeFinish s).irqSeen
      = (masksRestored s).maskTick.irqSeen := by rw [resumeFinish_eq hidle]
    _ = (s.irqSeen && ((masksRestored s).irqLine && (masksRestored s).maskTick.irqLine)) := by
      rw [hseen, masksRestored_irqSeen, Bool.and_assoc]
    _ = (s.irqSeen && (resumeFinish s).irqLine) := by rw [habsorb, hline]

/-- Settles O57: R1 is the command's own case; after R2 the masks read as the saved ones with the tick's bit
(`masksRestored_maskTick_mask`). -/
theorem resumeTransitions : Obligations.ResumeTransitions := by
  intro s hs
  refine ⟨fun hpowered hprobed hsuspended => execResume_starts hpowered hprobed hsuspended,
    fun hstarting hidle => ?finish⟩
  case finish =>
    rw [coordinatorFinish_resume hstarting]
    have hreg := State.reg_of_regs (resumeFinish_regs hidle)
    refine ⟨fun i hi => (hreg _).trans (masksRestored_maskTick_mask hs hi),
      fun a ha => (hreg a).trans (masksRestored_maskTick_sameRegsBut hs a ha), resumeFinish_irqSeen hs hidle, ?frame⟩
    case frame => rw [resumeFinish_eq hidle]

/-! ### The no-battery poller (R263, R264) -/

section Poller

variable {s : State}

theorem batteryPresent_iff :
    s.batteryPresent = true ↔ s.reg s.cfg.aBatstat.toNat &&& s.cfg.batPresentMask ≠ 0 := bne_iff_ne

/-- A poll of a running poller is its cycle. -/
theorem execNobatPoll_running (hpowered : s.standbyIssued = false) (hprobed : s.probed = true)
    (hpolling : s.nobat.running = true) : exec .nobatPoll s = .next (nobatCycle s) := by
  rw [exec, execNobatPoll, powered_eq hpowered, guarded_enabled (by rw [hprobed, hpolling]; rfl)]

theorem nobatCycle_skips (h : s.suspend ≠ .running) : nobatCycle s = s := if_pos h

/-- An inserted battery is recorded and classified, and the poller stops. -/
theorem nobatCycle_inserted (hrunning : s.suspend = .running) (hbattery : s.batteryPresent = true) :
    nobatCycle s =
      { classifyTrigger { s with lastBatInsert := some s.now } with
        nobat := ⟨false, (classifyTrigger { s with lastBatInsert := some s.now }).nobat.snapshot⟩ } := by
  rw [nobatCycle, if_neg (not_not.mpr hrunning), if_pos hbattery]

/-- Without a battery the poller goes on exactly while no removal was counted since the start. -/
theorem nobatCycle_absent (hrunning : s.suspend = .running) (hbattery : s.batteryPresent = false)
    (hpolling : s.nobat.running = true) :
    nobatCycle s = { s with nobat := ⟨s.usbRemovalCount == s.nobat.snapshot, s.nobat.snapshot⟩ } := by
  rw [nobatCycle, if_neg (not_not.mpr hrunning), if_neg (Bool.eq_false_iff.mp hbattery)]
  by_cases hstale : s.usbRemovalCount = s.nobat.snapshot
  · rw [if_neg (not_not.mpr hstale), beq_iff_eq.mpr hstale, ← hpolling]
  · rw [if_pos hstale, beq_false_of_ne hstale]

end Poller

/-- Settles O58: the start by `nobatStart_eq`, a cycle by its three cases, the classification read by
`classifyTrigger_spec`. -/
theorem nobatPoller : Obligations.NobatPoller := by
  intro s ⟨_, hregs⟩
  refine ⟨fun hlive => ?start, fun hpowered hprobed => ⟨fun hpolling hnot => ?skipped, fun hpolling hrunning =>
    ⟨fun hbattery => ?inserted, fun hbattery => ?absent⟩⟩⟩
  case start => rw [exec, execNobatStart, internalOp_eq hlive, nobatStart_eq]
  case skipped => rw [execNobatPoll_running hpowered hprobed hpolling, nobatCycle_skips hnot]
  case inserted =>
    obtain ⟨htriggered, -⟩ := classifyTrigger_spec (s := { s with lastBatInsert := some s.now }) hregs
    have hsnapshot : (classifyTrigger { s with lastBatInsert := some s.now }).nobat.snapshot = s.nobat.snapshot := by
      rw [htriggered.frame]
    refine ⟨_, htriggered, ?_⟩
    rw [execNobatPoll_running hpowered hprobed hpolling, nobatCycle_inserted hrunning (batteryPresent_iff.mpr hbattery),
      hsnapshot]
  case absent =>
    have hnone : s.batteryPresent = false := Bool.eq_false_iff.mpr fun h => batteryPresent_iff.mp h hbattery
    rw [execNobatPoll_running hpowered hprobed hpolling, nobatCycle_absent hrunning hnone hpolling]

end Sys2Proof.Machine
end

section
/-! SUPPORT. The register primitives of a host (43_suspend_and_tasks.md R268 to R271; 93_implementation_defined.md U4):
the checks in their order (60_exceptions.md R308), then the one access, as it succeeds and as it fails. -/

namespace Sys2Proof.Machine

/-! ### The checks -/

section Checks

variable {s : State} {reg count : Byte} {data : List Byte} {body : State → State}

theorem outOfRange_iff : outOfRange reg count = true ↔ count = 0 ∨ 255 < reg.toNat + count.toNat - 1 := by
  simp only [outOfRange, Bool.or_eq_true, beq_iff_eq, decide_eq_true_eq]

theorem inRange_refused (h : count = 0 ∨ 255 < reg.toNat + count.toNat - 1) :
    inRange reg count body s = s.raise none .range := if_pos (outOfRange_iff.mpr h)

/-- A block of at least one register inside the space passes the check. -/
theorem inRange_accepted (hcount : count ≠ 0) (hfits : reg.toNat + count.toNat ≤ 256) :
    inRange reg count body s = body s := by
  refine if_neg fun h => ?_
  obtain hzero | hbeyond := outOfRange_iff.mp h
  · exact hcount hzero
  · omega

theorem onBus_fails (h : s.draws.busError = true) : onBus body s = s.raise none .bus := if_pos h

theorem onBus_succeeds (h : s.draws.busError = false) : onBus body s = body s := if_neg (Bool.eq_false_iff.mp h)

/-- A block write of the right length inside the space is the one access. -/
theorem execWriteRegisterBlock_accepted (hserving : s.Serving) (hcount : count ≠ 0)
    (hfits : reg.toNat + count.toNat ≤ 256) (hlength : data.length = count.toNat) :
    exec (.writeRegisterBlock reg count data) s = .next (hostWrite reg data s) := by
  rw [exec, execWriteRegisterBlock, gatedCommand_serving hserving, inRange_accepted hcount hfits,
    if_neg (not_not.mpr hlength)]

end Checks

/-- Settles O14: the range is checked before the length of the data. -/
theorem rangeErrors : Obligations.RangeErrors := by
  intro s reg count data hserving
  refine ⟨fun hrange => (gatedCommand_serving hserving).trans (congrArg _ (inRange_refused hrange)), fun h =>
    (gatedCommand_serving hserving).trans (congrArg _ ?write)⟩
  case write =>
    by_cases hrange : count = 0 ∨ 255 < reg.toNat + count.toNat - 1
    · exact inRange_refused hrange
    · obtain ⟨hcount, hinside⟩ := not_or.mp hrange
      have hlength : data.length ≠ count.toNat := (h.resolve_left hcount).resolve_left hinside
      rw [inRange_accepted hcount (by omega), if_pos hlength]
      rfl

/-! ### Reading (R268) -/

/-- Settles O50: the access is `clearCovered`, with the bytes from before it as the answer. -/
theorem readRegisterBlock : Obligations.ReadRegisterBlock := by
  intro reg count s hs hserving hbus hcount hfits
  have hexec : exec (.readRegisterBlock reg count) s =
      .next ((s.clearCovered reg.toNat count.toNat).ret none (.bytes (s.readBlock reg.toNat count.toNat))) := by
    rw [exec, execReadRegisterBlock, gatedCommand_serving hserving, inRange_accepted hcount hfits, onBus_succeeds hbus]
  have hupdate : ∃ m q, s.clearCovered reg.toNat count.toNat = { s with regs := m, irqSeen := q } :=
    ⟨_, _, clearCovered_frame _ _⟩
  obtain ⟨m, q, hcleared⟩ := hupdate
  refine ⟨_, hexec, ?answer, fun a => State.clearCovered_reg hs, clearCovered_irqSeen _ _, ?frame⟩
  case answer =>
    rw [hcleared]
    rfl
  case frame =>
    rw [hcleared]
    rfl

/-! ### An access that ends with its answer -/

/-- `t` is `s` after an access to the `n` registers from `a` on that left registers, converter and standby flag as in
`u` and answered `v`: the line settled (20_memory.md R85), and nothing else. -/
structure Accessed (a n : Nat) (v : ReturnValue) (s u t : State) : Prop where
  regs : t.regs = u.regs
  adcHw : t.adcHw = u.adcHw
  standbyIssued : t.standbyIssued = u.standbyIssued
  irqSeen : t.irqSeen = if s.touchesLine a n then s.irqSeen && t.irqLine else s.irqSeen
  returns : t.returns = s.returns ++ [⟨none, v⟩]
  frame : t = { s with regs := t.regs, adcHw := t.adcHw, standbyIssued := t.standbyIssued, irqSeen := t.irqSeen,
                       returns := t.returns }

theorem accessed_settleAfter_ret {s u : State} (a n : Nat) (v : ReturnValue)
    (h : u = { s with regs := u.regs, adcHw := u.adcHw, standbyIssued := u.standbyIssued }) :
    Accessed a n v s u ((u.settleAfter a n).ret none v) := by
  have hupdate : ∃ m x b, u = { s with regs := m, adcHw := x, standbyIssued := b } := ⟨_, _, _, h⟩
  obtain ⟨m, x, b, rfl⟩ := hupdate
  rw [State.settleAfter_eq]
  exact ⟨rfl, rfl, rfl, rfl, rfl, rfl⟩

/-! ### One register (R270, R271) -/

theorem hostModify_stored {s : State} (hs : s.Sound) (reg v : Byte) :
    HostStored reg.toNat v s (hostModify reg v s) := by
  obtain ⟨hwritten, hothers, hadc, hstandby, hframe⟩ :=
    State.hostStore_spec reg.toNat v (s.draws.junk.headD 0) hs reg.isLt
  have haccess : Accessed reg.toNat 1 (.value 0) s (s.hostStore reg.toNat v (s.draws.junk.headD 0))
      (hostModify reg v s) := accessed_settleAfter_ret _ _ _ hframe
  have hreg := State.reg_of_regs haccess.regs
  exact ⟨fun hrw => (hreg _).trans (hwritten hrw), fun a ha => (hreg a).trans (hothers a ha),
    haccess.adcHw.trans hadc, haccess.standbyIssued.trans hstandby, haccess.irqSeen, haccess.returns, haccess.frame⟩

/-- Settles O52: both commands are `hostModify` of the byte they make. -/
theorem setAndClearBits : Obligations.SetAndClearBits := by
  intro reg mask s hs hserving hbus
  refine ⟨⟨_, ?set, hostModify_stored hs reg _⟩, ⟨_, ?clear, hostModify_stored hs reg _⟩⟩
  case set => rw [exec, execSetBits, gatedCommand_serving hserving, onBus_succeeds hbus]
  case clear => rw [exec, execClearBits, gatedCommand_serving hserving, onBus_succeeds hbus]

/-! ### A block (R269; U4) -/

/-- A block write that stored the bytes `stored` says and answers `v`. -/
def blockWritten (a : Nat) (data : List Byte) (stored : List Bool) (v : ReturnValue) (s : State) : State :=
  ((s.hostStoreBlock a data s.draws.junk stored).settleAfter a data.length).ret none v

theorem hostWrite_fails {s : State} {reg : Byte} {data : List Byte} (h : s.draws.busError = true) :
    hostWrite reg data s = blockWritten reg.toNat data s.draws.stored (.error .bus) s := by
  simp only [hostWrite, h, if_true]
  rfl

theorem hostWrite_succeeds {s : State} {reg : Byte} {data : List Byte} (h : s.draws.busError = false) :
    hostWrite reg data s = blockWritten reg.toNat data (List.replicate data.length true) (.value 0) s := by
  simp only [hostWrite, h, Bool.false_eq_true, if_false]
  rfl

section BlockWritten

variable {s : State} {a : Nat} {data : List Byte} {stored : List Bool} {v : ReturnValue}

theorem blockWritten_accessed (hs : s.Sound) (hfits : a + data.length ≤ 256) :
    Accessed a data.length v s (s.hostStoreBlock a data s.draws.junk stored) (blockWritten a data stored v s) := by
  obtain ⟨-, -, -, -, hframe⟩ := State.hostStoreBlock_spec a data s.draws.junk stored hs hfits
  exact accessed_settleAfter_ret _ _ _ hframe

/-- What a block write on a powered device leaves, byte by byte. -/
theorem blockWritten_spec (hs : s.Sound) (hpowered : s.standbyIssued = false) (hfits : a + data.length ≤ 256) :
    let t := blockWritten a data stored v s
    let byte := fun b => data.getD (b - a) 0
    let ctl := s.cfg.aAdcctl.toNat
    let sby := s.cfg.aStandby.toNat
    (∀ b, StoredAt a data.length stored b → s.readOnly b = false → t.reg b = byte b) ∧
      (∀ b, ¬StoredAt a data.length stored b → t.reg b = s.reg b) ∧
      t.adcHw = (if StoredAt a data.length stored ctl ∧ adcctlStarts s.cfg (byte ctl) = true then
        .converting (adcctlChan s.cfg (byte ctl)) (adcctlAvg s.cfg (byte ctl)) else s.adcHw) ∧
      t.standbyIssued =
        decide (StoredAt a data.length stored sby ∧ allSet (byte sby) s.cfg.standbyCmd = true) := by
  obtain ⟨hwritten, hothers, hadc, hstandby, -⟩ :=
    State.hostStoreBlock_spec a data s.draws.junk stored hs hfits
  have haccess := blockWritten_accessed (v := v) (stored := stored) hs hfits
  have hreg := State.reg_of_regs haccess.regs
  rw [hpowered, Bool.false_or] at hstandby
  exact ⟨fun b hb hrw => (hreg b).trans (hwritten b hb hrw), fun b hb => (hreg b).trans (hothers b hb),
    haccess.adcHw.trans hadc, haccess.standbyIssued.trans hstandby⟩

end BlockWritten

/-- Settles O51: a write that succeeds stores every byte of the block (`storedAt_replicate`). -/
theorem writeRegisterBlock : Obligations.WriteRegisterBlock := by
  intro reg count data s hs hserving hbus hcount hfits hlength
  have hexec := execWriteRegisterBlock_accepted hserving hcount hfits hlength
  rw [hostWrite_succeeds hbus] at hexec
  rw [← hlength] at hfits ⊢
  have haccess := blockWritten_accessed (v := .value 0) (stored := List.replicate data.length true) hs hfits
  have hspec := blockWritten_spec (v := .value 0) (stored := List.replicate data.length true) hs hserving.1.1 hfits
  simp only [storedAt_replicate] at hspec
  obtain ⟨hwritten, hothers, hadc, hstandby⟩ := hspec
  exact ⟨_, hexec, hwritten, hothers, hadc, hstandby, haccess.irqSeen, haccess.returns, haccess.frame⟩

/-- Settles O15: a failed read or read-modify-write is its error; a failed block write stores what was drawn. -/
theorem busErrors : Obligations.BusErrors := by
  intro s reg hs hserving hbus
  refine ⟨fun count hcount hfits => ?read, fun mask => ⟨?set, ?clear⟩, fun count data hcount hfits hlength => ?write⟩
  case read =>
    rw [exec, execReadRegisterBlock, gatedCommand_serving hserving, inRange_accepted hcount hfits, onBus_fails hbus]
    rfl
  case set =>
    rw [exec, execSetBits, gatedCommand_serving hserving, onBus_fails hbus]
    rfl
  case clear =>
    rw [exec, execClearBits, gatedCommand_serving hserving, onBus_fails hbus]
    rfl
  case write =>
    have hexec := execWriteRegisterBlock_accepted hserving hcount hfits hlength
    rw [hostWrite_fails hbus] at hexec
    rw [← hlength] at hfits ⊢
    have haccess := blockWritten_accessed (v := .error .bus) (stored := s.draws.stored) hs hfits
    obtain ⟨hwritten, hothers, hadc, hstandby⟩ :=
      blockWritten_spec (v := .error .bus) (stored := s.draws.stored) hs hserving.1.1 hfits
    exact ⟨_, hexec, hwritten, hothers, hadc, hstandby, haccess.irqSeen, haccess.returns, haccess.frame⟩

end Sys2Proof.Machine
end

section
/-! SUPPORT. The order of the suspend states (43_suspend_and_tasks.md R262): four operations can move the state, each
in its own way, and the coordinator's second transitions; nothing else touches it. -/

namespace Sys2Proof.Machine

/-! ### The frames in which the meanings run -/

section Frames

variable {s t u : State} {c : Option Byte} {body : State → State}

theorem Quiet.suspend (h : Quiet s t) : t.suspend = s.suspend := congrArg Anchor.suspend h.anchor

theorem powered_suspend (h : powered s (.next u) = .next t) (k : u.suspend = s.suspend) : t.suspend = s.suspend :=
  Host.Outcome.next.inj (powered_next.mp h).2 ▸ k

theorem internalOp_suspend (h : internalOp s (.next u) = .next t) (k : u.suspend = s.suspend) :
    t.suspend = s.suspend := Host.Outcome.next.inj (internalOp_next.mp h).2.2 ▸ k

theorem eventStep_suspend {e : Event} {rule : State → State} (h : eventStep e rule s = .next t)
    (k : (rule s).suspend = s.suspend) : t.suspend = s.suspend := internalOp_suspend h k

theorem subregStep_suspend {k : Fin 10} (h : subregStep k s = .next t) : t.suspend = s.suspend :=
  eventStep_suspend h rfl

theorem hostCommand_suspend (h : hostCommand s c body = .next t) (k : (body s).suspend = s.suspend) :
    t.suspend = s.suspend := by
  obtain ⟨-, rfl⟩ := hostCommand_next.mp h
  split
  · exact k
  · rfl

/-- A host command that the access gate stops. -/
theorem gatedCommand_suspend (h : hostCommand s c (throughGate c body) = .next t)
    (k : (body s).suspend = s.suspend) : t.suspend = s.suspend := by
  refine hostCommand_suspend h ?_
  unfold throughGate
  split
  · exact k
  · rfl

theorem inRange_suspend {reg count : Byte} (k : (body s).suspend = s.suspend) :
    (inRange reg count body s).suspend = s.suspend := by
  unfold inRange
  split
  · rfl
  · exact k

theorem onBus_suspend (k : (body s).suspend = s.suspend) : (onBus body s).suspend = s.suspend := by
  unfold onBus
  split
  · rfl
  · exact k

theorem guarded_suspend {g : State → Bool} (k : (body s).suspend = s.suspend) :
    (guarded g body s).suspend = s.suspend := by
  unfold guarded
  split
  · exact k
  · rfl

end Frames

/-! ### The shared operations that move the queue -/

section Operations

variable (s : State)

theorem hostWrite_suspend (reg : Byte) (data : List Byte) : (hostWrite reg data s).suspend = s.suspend := by
  have hwritten (stored : List Bool) (v : ReturnValue) :
      (blockWritten reg.toNat data stored v s).suspend = s.suspend := by
    have hfields := hostStoreBlock_fields s reg.toNat data s.draws.junk stored
    rw [blockWritten, State.settleAfter_eq]
    exact congrArg (fun f => f.1.suspend) hfields
  cases hbus : s.draws.busError with
  | true => rw [hostWrite_fails hbus, hwritten]
  | false => rw [hostWrite_succeeds hbus, hwritten]

theorem adcEnqueue_suspend {ok full : State → State} (r : AdcRequest) (hok : ∀ u, (ok u).suspend = u.suspend)
    (hfull : ∀ u, (full u).suspend = u.suspend) : (adcEnqueue r ok full s).suspend = s.suspend := by
  unfold adcEnqueue
  split
  · exact hfull _
  · exact (hok _).trans (enqueueAccepted_pushes s r).suspend

theorem classifyTrigger_suspend : (classifyTrigger s).suspend = s.suspend :=
  adcEnqueue_suspend s _ (fun _ => rfl) fun _ => rfl

theorem adcComplete_suspend {s t : State} (h : adcComplete s = some t) : t.suspend = s.suspend := by
  rcases adcComplete_cases h with ⟨-, rfl⟩ | ⟨r, -, -, hnext⟩
  · rfl
  · exact (startNext_quiet hnext).suspend.trans (deliver_quiet _ _ _).suspend

theorem nobatCycle_suspend : (nobatCycle s).suspend = s.suspend := by
  unfold nobatCycle
  split
  · rfl
  · split
    · exact classifyTrigger_suspend _
    · split <;> rfl

theorem ruleUsbRem_suspend : (ruleUsbRem s).suspend = s.suspend := by
  unfold ruleUsbRem
  split
  · rfl
  · exact classifyTrigger_suspend _

theorem usbIns_suspend : (if s.atUsbInsB then usbInsB s else usbInsA s).suspend = s.suspend := by
  split
  · exact classifyTrigger_suspend s
  · rfl

end Operations

/-! ### The operations that leave the state -/

/-- PROBE and the three operations whose rules are in the table of R262. -/
def turnsSuspend : Instr → Bool
  | .probe => true
  | .suspend => true
  | .resume => true
  | .dispatch => true
  | _ => false

/-- No event is one of them. -/
theorem turnsSuspend_instr (e : Event) : turnsSuspend e.instr = false := by
  cases e with
  | subregFail k => fin_cases k <;> rfl
  | _ => rfl

/-- Every other operation leaves the suspend state. -/
theorem exec_suspend {i : Instr} {s t : State} (hi : turnsSuspend i = false) (h : exec i s = .next t) :
    t.suspend = s.suspend := by
  unfold exec at h
  cases i with
  | probe | suspend | resume | dispatch => cases hi
  -- host commands
  | adcAsyncRead | adcSyncRead | batteryVoltage =>
    exact gatedCommand_suspend h (adcEnqueue_suspend s _ (fun _ => rfl) fun _ => rfl)
  | notifyUsbCurlim => exact hostCommand_suspend h rfl
  | readRegisterBlock =>
    exact gatedCommand_suspend h (inRange_suspend (onBus_suspend (clearCovered_quiet s _ _).suspend))
  | writeRegisterBlock =>
    refine gatedCommand_suspend h (inRange_suspend ?_)
    split
    · rfl
    · exact hostWrite_suspend s _ _
  | setBits | clearBits => exact gatedCommand_suspend h (onBus_suspend (hostModify_quiet s _ _).suspend)
  | ready => exact powered_suspend h rfl
  | waitUntilReady =>
    refine powered_suspend h ?_
    split <;> rfl
  | goStandby => exact gatedCommand_suspend h rfl
  -- internal micro-operations
  | adcEnqueue => exact internalOp_suspend h (adcEnqueue_suspend s _ (fun _ => rfl) fun _ => rfl)
  | adcStart => exact internalOp_suspend h rfl
  | adcComplete => exact adcComplete_suspend (completed_next.mp (internalOp_next.mp h).2.2)
  | classify =>
    have hb := (powered_next.mp h).2
    split at hb
    · exact Host.Outcome.next.inj hb ▸ rfl
    · cases hb
  | applyPolicy => exact internalOp_suspend h (applyPolicy_quiet s _).suspend
  | setCurrentLimit => exact internalOp_suspend h (setCurrentLimit_quiet s _).suspend
  | chargeEnable => exact internalOp_suspend h (chargeEnable_quiet s _).suspend
  | autoresumeHandshake => exact internalOp_suspend h rfl
  | classifyTrigger => exact internalOp_suspend h (classifyTrigger_suspend s)
  | classifyDone =>
    have hb := (internalOp_next.mp h).2.2
    split at hb
    · cases hb
    · exact Host.Outcome.next.inj hb ▸ (classifyDone_quiet s _ _).suspend
  | batfullDance => exact internalOp_suspend h rfl
  | nobatStart => exact internalOp_suspend h (nobatStart_quiet s).suspend
  -- deferred tasks
  | curlimTask => exact powered_suspend h (guarded_suspend (curlimRun_quiet s).suspend)
  | nobatPoll => exact powered_suspend h (guarded_suspend (nobatCycle_suspend s))
  -- events
  | evUsbIns => exact internalOp_suspend h (usbIns_suspend s)
  | evUsbRem => exact eventStep_suspend h (ruleUsbRem_suspend s)
  | evAlarm => exact eventStep_suspend h (forwardRtc_quiet s _).suspend
  | evTick => exact eventStep_suspend h ((forwardRtc_quiet s _).trans (countHeld_quiet _)).suspend
  | evOnkeyF => exact eventStep_suspend h (ruleOnkeyF_quiet s).suspend
  | evOnkeyR => exact eventStep_suspend h (ruleOnkeyR_quiet s).suspend
  | evBatfull => exact eventStep_suspend h (ruleBatfull_quiet s).suspend
  | evAdcRdy =>
    obtain ⟨u, hu, rfl⟩ := Option.map_eq_some_iff.mp (completed_next.mp (internalOp_next.mp h).2.2)
    have hcompleted : u.suspend = s.suspend := adcComplete_suspend hu
    exact hcompleted
  | evLowbat | evLowsys => exact eventStep_suspend h (ruleLowpwr_quiet s).suspend
  | evChgIns | evChgRem | evOnkey1s | evChghalt | evThlimOn | evThlimOff | evUsblimOn | evUsblimOff | evHightemp
  | evAutopwrfail | evLedFail | evLedOvp => exact eventStep_suspend h rfl
  | evSubregFail0 | evSubregFail1 | evSubregFail2 | evSubregFail3 | evSubregFail4 | evSubregFail5 | evSubregFail6
  | evSubregFail7 | evSubregFail8 | evSubregFail9 => exact subregStep_suspend h
  -- environment inputs
  | pmuRaise | envSetStatus | envRtcWant => exact powered_suspend h rfl
  | adcHwDone => exact powered_suspend h (guarded_suspend (conversionDone_quiet s _).suspend)
  | irqEdge => exact powered_suspend h (guarded_suspend (requestDispatch_quiet _).suspend)

/-! ### The operations that move it -/

section Movers

variable {s t : State}

/-- PROBE sets the initial state back, and only before a first PROBE. -/
theorem execProbe_suspend (h : execProbe s = .next t) :
    t.suspend = s.suspend ∨ s.probed = false ∧ t.suspend = .running := by
  obtain rfl := Host.Outcome.next.inj (powered_next.mp h).2
  split
  · exact .inl rfl
  · rename_i hfresh
    exact .inr ⟨Bool.eq_false_iff.mpr hfresh, rfl⟩

/-- SUSPEND makes S1 from `running` or nothing. -/
theorem execSuspend_suspend (h : execSuspend s = .next t) :
    t.suspend = s.suspend ∨ s.suspend = .running ∧ t.suspend = .startingSuspend := by
  obtain ⟨-, rfl⟩ := hostCommand_next.mp h
  split
  · split
    · exact .inl rfl
    · rename_i hfree
      exact .inr ⟨not_not.mp (not_or.mp hfree).1, rfl⟩
  · exact .inl rfl

/-- RESUME makes R1 from `completed_suspend` or nothing. -/
theorem execResume_suspend (h : execResume s = .next t) :
    t.suspend = s.suspend ∨ s.suspend = .completedSuspend ∧ t.suspend = .startingResume := by
  obtain ⟨-, rfl⟩ := hostCommand_next.mp h
  split
  · split
    · exact .inl rfl
    · rename_i hsuspended
      exact .inr ⟨not_not.mp hsuspended, rfl⟩
  · exact .inl rfl

/-- STEP4 completes the resume lazily (42_interrupt_dispatcher.md R204). -/
theorem passStep4_suspend (block : Block) (s : State) :
    (passStep4 block s).suspend = s.suspend ∨ s.suspend = .completedResume ∧ (passStep4 block s).suspend = .running := by
  unfold passStep4
  split
  · rename_i hresumed
    exact .inr ⟨hresumed, rfl⟩
  · exact .inl rfl

theorem passEntry_suspend (s : State) : (passEntry s).suspend = s.suspend := by
  unfold passEntry
  split
  · split <;> rfl
  · rfl

theorem passRead_suspend (s : State) : (passRead s).suspend = s.suspend := by
  unfold passRead
  split
  · unfold shortRead
    split
    · exact (clearCovered_quiet s _ _).suspend
    · rfl
  · exact (fullRead_quiet s).suspend

theorem passStep5_suspend (s : State) : (passStep5 s).suspend = s.suspend := by
  unfold passStep5
  split
  · rfl
  · exact (classifyTrigger_suspend _).trans
      ((maskTick_quiet s).trans (coldplugReports_quiet _ s.maskTick.usbOk s.maskTick.chgOk)).suspend

/-- Of the micro-steps of a pass only STEP4 moves the state. -/
theorem passStep_suspend {p : Pass} (h : passStep p s = .next t) :
    t.suspend = s.suspend ∨ p.next = .step4 ∧ s.suspend = .completedResume ∧ t.suspend = .running := by
  unfold passStep at h
  split at h
  · exact .inl (Host.Outcome.next.inj h ▸ passRead_suspend s)
  · rename_i hstep4
    obtain rfl := Host.Outcome.next.inj h
    exact (passStep4_suspend p.block s).imp_right fun hlazy => ⟨hstep4, hlazy⟩
  · exact .inl (Host.Outcome.next.inj h ▸ passStep5_suspend s)
  · rename_i e _
    exact .inl (exec_suspend (turnsSuspend_instr e) ((exec_instr e s).trans h))
  · exact .inl (exec_suspend (i := .evUsbIns) rfl h)
  · exact .inl (Host.Outcome.next.inj h ▸ rfl)

theorem execDispatch_suspend (h : execDispatch s = .next t) :
    t.suspend = s.suspend ∨
      (s.pass.map Pass.next) = some .step4 ∧ s.suspend = .completedResume ∧ t.suspend = .running := by
  have hb := (powered_next.mp h).2
  split at hb
  · exact .inl (Host.Outcome.next.inj hb ▸ passEntry_suspend s)
  · rename_i p hpass _
    split at hb
    · refine (passStep_suspend hb).imp_right fun ⟨hstep4, hlazy⟩ => ⟨?_, hlazy⟩
      rw [hpass, Option.map_some, hstep4]
    · cases hb
  · cases hb

end Movers

/-- What an operation can do to the suspend state. -/
theorem exec_suspend_cases {i : Instr} {s t : State} (h : exec i s = .next t) :
    t.suspend = s.suspend ∨ (i = .probe ∧ s.probed = false ∧ t.suspend = .running) ∨
      (i = .suspend ∧ s.suspend = .running ∧ t.suspend = .startingSuspend) ∨
      (i = .resume ∧ s.suspend = .completedSuspend ∧ t.suspend = .startingResume) ∨
      (i = .dispatch ∧ (s.pass.map Pass.next) = some .step4 ∧ s.suspend = .completedResume ∧
        t.suspend = .running) := by
  cases hi : turnsSuspend i with
  | false => exact .inl (exec_suspend hi h)
  | true =>
    cases i with
    | probe => exact (execProbe_suspend h).imp_right fun hp => .inl ⟨rfl, hp⟩
    | suspend => exact (execSuspend_suspend h).imp_right fun hs1 => .inr (.inl ⟨rfl, hs1⟩)
    | resume => exact (execResume_suspend h).imp_right fun hr1 => .inr (.inr (.inl ⟨rfl, hr1⟩))
    | dispatch => exact (execDispatch_suspend h).imp_right fun hlazy => .inr (.inr (.inr ⟨rfl, hlazy⟩))
    | _ => cases hi

/-- What the coordinator's second transition does to it: S2, R2, or nothing. -/
theorem coordinatorFinish_suspend_cases (s : State) :
    (coordinatorFinish s).suspend = s.suspend ∨
      (s.suspend = .startingSuspend ∧ (coordinatorFinish s).suspend = .completedSuspend) ∨
      (s.suspend = .startingResume ∧ (coordinatorFinish s).suspend = .completedResume) := by
  cases hsuspend : s.suspend with
  | startingSuspend =>
    refine .inr (.inl ⟨rfl, ?_⟩)
    rw [coordinatorFinish_suspend hsuspend, suspendFinish_eq]
  | startingResume =>
    refine .inr (.inr ⟨rfl, ?_⟩)
    rw [coordinatorFinish_resume hsuspend]
    exact (requestDispatch_quiet _).suspend
  | running => exact .inl (by rw [coordinatorFinish, hsuspend, hsuspend])
  | completedSuspend => exact .inl (by rw [coordinatorFinish, hsuspend, hsuspend])
  | completedResume => exact .inl (by rw [coordinatorFinish, hsuspend, hsuspend])

/-! ### Every step -/

/-- Whatever a step runs makes one of the five transitions or none; before PROBE there is only `running`. -/
theorem perform_suspend {f : Fetched} {s t : State} (hunprobed : s.probed = false → s.suspend = .running)
    (h : perform s f = .next t) : t.suspend = s.suspend ∨ SuspendEdge s.suspend t.suspend := by
  cases f with
  | instr i =>
    obtain hsame | ⟨-, hfresh, hto⟩ | ⟨-, hfrom, hto⟩ | ⟨-, hfrom, hto⟩ | ⟨-, -, hfrom, hto⟩ := exec_suspend_cases h
    · exact .inl hsame
    · exact .inl (hto.trans (hunprobed hfresh).symm)
    · exact .inr (hfrom ▸ hto ▸ .suspendStart)
    · exact .inr (hfrom ▸ hto ▸ .resumeStart)
    · exact .inr (hfrom ▸ hto ▸ .lazyRunning)
  | coordinator =>
    obtain rfl := Host.Outcome.next.inj h
    obtain hsame | ⟨hfrom, hto⟩ | ⟨hfrom, hto⟩ := coordinatorFinish_suspend_cases s
    · exact .inl hsame
    · exact .inr (hfrom ▸ hto ▸ .suspendFinish)
    · exact .inr (hfrom ▸ hto ▸ .resumeFinish)
  | illegalCommand => exact .inl (Host.Outcome.next.inj h ▸ rfl)
  | undecodable why => cases h
  | wake w => exact .inl (Host.Outcome.next.inj h ▸ (wakeCaller_quiet s w).suspend)
  | idle => exact .inl (Host.Outcome.next.inj h ▸ rfl)

/-- Settles O16: what a step runs moves the state along the table (`perform_suspend`), and each transition is its own
rule's (`exec_suspend_cases`, `coordinatorFinish_suspend_cases`). -/
theorem suspendOrder : Obligations.SuspendOrder := by
  refine ⟨?step, ?operations, fun s hmoved => (coordinatorFinish_suspend_cases s).resolve_left hmoved,
    fun s hpowered hprobed => ⟨fun hbusy => execSuspend_busy hpowered hprobed (.inl hbusy),
      fun hbusy => execResume_busy hpowered hprobed hbusy⟩⟩
  case step =>
    intro s t hinv h
    obtain ⟨f, port, draws, now, -, hperform⟩ := step_performs h
    obtain ⟨-, -, hcontrol⟩ := State.inv_iff.mp hinv
    exact perform_suspend (s := { s with port := port, draws := draws, now := now, invoked := none })
      hcontrol.unprobed hperform
  case operations =>
    intro i s t hprobed h hmoved
    refine ((exec_suspend_cases h).resolve_left hmoved).resolve_left fun ⟨_, hfresh, _⟩ => ?_
    exact Bool.false_ne_true (hfresh.symm.trans hprobed)

end Sys2Proof.Machine
end

section
/-! SUPPORT. The error answers (60_exceptions.md R302, R303, R305, R306): the frame in which the guarded commands run,
and what each of its checks answers. -/

namespace Sys2Proof.Machine

/-! ### The frames of the commands -/

/-- Every command that R305 names goes through the access gate, under its own caller. -/
theorem exec_of_gatedCaller {i : Instr} {c : Option Byte} (h : gatedCaller i = some c) (s : State) :
    ∃ body, exec i s = hostCommand s c (throughGate c body) := by
  cases i with
  | adcAsyncRead | adcSyncRead | batteryVoltage | readRegisterBlock | writeRegisterBlock | setBits | clearBits
  | goStandby =>
    obtain rfl := Option.some.inj h
    exact ⟨_, rfl⟩
  | _ => cases h

/-- Every command that R303 names runs in the frame of the host commands: three of them not behind the gate. -/
theorem exec_of_guardedCaller {i : Instr} {c : Option Byte} (h : guardedCaller i = some c) (s : State) :
    ∃ body, exec i s = hostCommand s c body := by
  cases i with
  | adcAsyncRead | adcSyncRead | batteryVoltage | readRegisterBlock | writeRegisterBlock | setBits | clearBits
  | goStandby | notifyUsbCurlim | suspend | resume =>
    obtain rfl := Option.some.inj h
    unfold exec
    exact ⟨_, rfl⟩
  | _ => cases h

/-! ### Before PROBE (R303) -/

theorem hostCommand_unprobed {s : State} {c : Option Byte} {body : State → State} (hpowered : s.standbyIssued = false)
    (hfresh : s.probed = false) : hostCommand s c body = .next (s.raise c .access) := by
  rw [hostCommand, powered_eq hpowered, if_neg (by simp [hfresh])]

/-- Settles O10: the guarded commands share the frame that looks at `probed` first; an illegal word is no operation. -/
theorem beforeProbe : Obligations.BeforeProbe := by
  intro s hpowered hfresh
  refine ⟨fun i c hguarded => ?guarded, fun w p d hop => ?illegal⟩
  case guarded =>
    obtain ⟨body, hexec⟩ := exec_of_guardedCaller hguarded s
    exact hexec.trans (hostCommand_unprobed hpowered hfresh)
  case illegal =>
    rw [fetch_illegal_command hop]
    rfl

/-! ### The closed access gate (R305) -/

/-- The three states of R305 are those in which `accessAllowed_iff` does not open the gate. -/
theorem accessAllowed_closed {s : State}
    (h : s.suspend = .startingSuspend ∨ s.suspend = .completedSuspend ∨ s.suspend = .startingResume) :
    s.accessAllowed = false := by
  rw [Bool.eq_false_iff, ne_eq, accessAllowed_iff]
  rcases h with h | h | h <;> simp [h]

/-- A transition without report, answer or register write. -/
abbrev Silent (s t : State) : Prop := t.outputs = s.outputs ∧ t.returns = s.returns ∧ t.regs = s.regs

theorem powered_guarded_silent {s t : State} {g : State → Bool} {body : State → State} (k : Silent s (body s))
    (h : powered s (.next (guarded g body s)) = .next t) : Silent s t := by
  obtain rfl := Host.Outcome.next.inj (powered_next.mp h).2
  unfold guarded
  split
  · exact k
  · exact ⟨rfl, rfl, rfl⟩

/-- The deferred tasks look at the gate, or at the suspend state, before they do anything. -/
theorem exec_task_closed_silent {i : Instr} {s t : State} (hgate : s.accessAllowed = false)
    (htask : i = .dispatch ∨ i = .curlimTask ∨ i = .nobatPoll) (h : exec i s = .next t) : Silent s t := by
  obtain rfl | rfl | rfl := htask
  · rw [execDispatch_closed hgate h]
    exact ⟨rfl, rfl, rfl⟩
  · exact powered_guarded_silent (by rw [curlimRun_closed hgate]; exact ⟨rfl, rfl, rfl⟩) h
  · exact powered_guarded_silent (by rw [nobatCycle_closed hgate]; exact ⟨rfl, rfl, rfl⟩) h

/-- R2 asks for a pass and answers 0; it reports nothing, whatever the Dispatcher does. -/
theorem resumeFinish_answers (s : State) :
    (resumeFinish s).outputs = s.outputs ∧ (resumeFinish s).returns = s.returns ++ [⟨none, .value 0⟩] := by
  have hrestored : ∃ m q, masksRestored s = { s with regs := m, irqSeen := q } := ⟨_, _, masksRestored_eq s⟩
  have hfinish : resumeFinish s =
      (State.requestDispatch
        { (masksRestored s).maskTick with irqDelivery := true, suspend := .completedResume }).ret none (.value 0) := rfl
  obtain ⟨m, q, hmq⟩ := hrestored
  rw [hfinish, hmq, requestDispatch_eq]
  exact ⟨rfl, rfl⟩

/-- The coordinator's accesses are exempt from the gate: S2 and R2 answer 0 and report no violation. -/
theorem coordinatorFinish_answers (s : State) :
    (coordinatorFinish s).outputs = s.outputs ∧
      ((coordinatorFinish s).returns = s.returns ∨
        (coordinatorFinish s).returns = s.returns ++ [⟨none, .value 0⟩]) := by
  unfold coordinatorFinish
  cases s.suspend with
  | startingSuspend =>
    rw [suspendFinish_eq]
    exact ⟨rfl, .inr rfl⟩
  | startingResume =>
    obtain ⟨houtputs, hreturns⟩ := resumeFinish_answers s
    exact ⟨houtputs, .inr hreturns⟩
  | running | completedSuspend | completedResume => exact ⟨rfl, .inl rfl⟩

/-- Settles O11: the gated commands by the frame of `exec_of_gatedCaller`, then the tasks, then the coordinator. -/
theorem gateErrors : Obligations.GateErrors := by
  intro s hpowered hprobed hclosed
  have hgate := accessAllowed_closed hclosed
  refine ⟨fun i c hgated => ?command, fun i t => exec_task_closed_silent hgate, coordinatorFinish_answers s⟩
  case command =>
    obtain ⟨body, hexec⟩ := exec_of_gatedCaller hgated s
    rw [hexec, hostCommand_eq hpowered hprobed, throughGate_closed hgate]
    rfl

/-! ### The coordinator is busy (R306) -/

/-- Settles O12: each of the two commands starts from one state only, and elsewhere raises E_BUSY. -/
theorem busyErrors : Obligations.BusyErrors := fun _ hpowered hprobed =>
  ⟨execSuspend_busy hpowered hprobed, execResume_busy hpowered hprobed⟩

/-! ### A full FIFO (R302) -/

section Full

variable {s : State} (hfull : (s.head + 1) % s.cfg.depth = s.tail)
include hfull

/-- The request is dropped, the defect reported, the error handed to the caller. -/
theorem adcEnqueue_full_raise (r : AdcRequest) (c : Option Byte) (ok : State → State) :
    adcEnqueue r ok (fun t => t.raise c .queueFull) s =
      { s with
        outputs := s.outputs ++ [.defect .adcQueueFull]
        returns := s.returns ++ [⟨c, .error .queueFull⟩] } :=
  adcEnqueue_full hfull

/-- The three ADC commands are one path. -/
theorem adcCommand_full (hserving : s.Serving) (r : AdcRequest) (c : Option Byte) (ok : State → State) :
    hostCommand s c (throughGate c (adcEnqueue r ok (fun t => t.raise c .queueFull))) =
      .next
        { s with
          outputs := s.outputs ++ [.defect .adcQueueFull]
          returns := s.returns ++ [⟨c, .error .queueFull⟩] } := by
  rw [gatedCommand_serving hserving, adcEnqueue_full_raise hfull]

/-- The defect of the queue comes before the warning of the trigger (41_charger_fsm.md R176, log 29). -/
theorem classifyTrigger_full :
    classifyTrigger s = { s with outputs := s.outputs ++ [.defect .adcQueueFull, .warn .classifyDropped] } := by
  rw [classifyTrigger, adcEnqueue_full hfull, State.emit, State.emit, List.append_assoc]
  rfl

end Full

/-- Settles O13: the operations by what `adcEnqueue` does on a full FIFO, each with its own caller. -/
theorem queueFullErrors : Obligations.QueueFullErrors := by
  intro s hserving hfull
  have hlive : s.Live := hserving.1
  refine ⟨fun chan avg target param => ?enqueue, fun _ _ _ _ => adcCommand_full hfull hserving .., fun _ _ _ =>
    adcCommand_full hfull hserving .., fun _ => adcCommand_full hfull hserving .., ?trigger⟩
  case enqueue => exact (internalOp_eq hlive).trans (congrArg _ (adcEnqueue_full_raise hfull ..))
  case trigger => exact (internalOp_eq hlive).trans (congrArg _ (classifyTrigger_full hfull))

end Sys2Proof.Machine
end
